-- ==== Sys2Proof/Word.lean ====
section
/-! DEFINITION. The value types of the machine (spec/00_scope.md R8) and the closed sets of names that instructions are
made of: formats (30_encoding.md R55), relative and absolute modes (10_state.md R35). -/

namespace Sys2Proof

/-- One byte of memory or of an instruction (00_scope.md R6). -/
abbrev Byte := BitVec 8

/-- `Word24` (00_scope.md R8): a 24-bit pattern; `toNat` is `unsigned`, `toInt` is `signed`. -/
abbrev Word := BitVec 24

/-- `Word48` (00_scope.md R8, 40_alu_word24.md R83): a 48-bit container without arithmetic. -/
abbrev Wide := BitVec 48

/-- A piece of text, character by character: object records and assembly tokens. -/
abbrev Text := List Char

/-- The five instruction formats and the pseudo-format Unknown/data (30_encoding.md R55). -/
inductive Format where
  | sic | f1 | f2 | f3 | f4 | unknown
deriving DecidableEq, Repr

/-- The relative modes, chosen by the bits (b,p) (10_state.md R35, 30_encoding.md R66). -/
inductive RelMode where
  | direct | pcRel | baseRel | invalid
deriving DecidableEq, Repr

/-- The absolute modes, chosen by the bits (n,i) (10_state.md R35, 30_encoding.md R66). -/
inductive AbsMode where
  | sic | immediate | indirect | direct
deriving DecidableEq, Repr

end Sys2Proof
end

