-- ==== Sys2Proof/Config.lean ====
section
/-! DEFINITION. What is fixed for the machine (spec/00_scope.md R6) and the free values: the answers of the device
collaborator, which the spec leaves OPEN (92_eei_decisions.md D27). -/

namespace Sys2Proof

/-- One call of the device port with the collaborator's answer (46_device_io.md R190): `none` and `false` are Error. -/
inductive DevEvent where
  | read (device : Byte) (answer : Option Byte)
  | write (device : Byte) (byte : Byte) (ok : Bool)
deriving DecidableEq, Repr

namespace Config

/-- `MEM_SIZE` (00_scope.md R6): the number of bytes of memory; `ADDR_MAX` is one less. -/
def memSize : Nat := 0x100000

/-- What a byte of memory that the model does not list reads as: its reset value 0x00 (10_state.md R36). -/
def unlistedByte : Byte := 0

/-- `T_MAX` (00_scope.md R6): the most payload bytes of a T record the writer emits. -/
def maxTextPayload : Nat := 30

/-- What `DEV.readByte(d)` answers after the events so far, where no answer is scripted: a byte or `none` for Error.
A FREE VALUE (46_device_io.md R190, D27; log entry 2): no body, so nothing can be proved about it. -/
opaque readAnswer : List DevEvent → Byte → Option Byte

/-- Whether `DEV.writeByte(d, b)` succeeds after the events so far, where no answer is scripted.
A FREE VALUE (46_device_io.md R190, D27; log entry 2). -/
opaque writeAnswer : List DevEvent → Byte → Byte → Bool

end Config

end Sys2Proof
end

