-- ==== Sys2Proof/Syntax.lean ====
section
/-! DEFINITION. The instructions: one constructor for each of the 143 rows of spec/opcode_table.json, that is for each
mnemonic in each of its formats (spec/30_encoding.md R55 to R64). Register ids stay raw nibbles and b = p = 1 stays a
relative mode, because decoding never fails on them (30_encoding.md R65, R66). -/

namespace Sys2Proof

/-- The operand of an instruction in SIC format (30_encoding.md R58): the indexed flag and the 15-bit address. -/
structure SicOperand where
  indexed : Bool
  address : BitVec 15
deriving DecidableEq, Repr

/-- The operand of a format-3 instruction (30_encoding.md R59): modes, indexed flag, signed 12-bit displacement. -/
structure F3Operand where
  abs : AbsMode
  rel : RelMode
  indexed : Bool
  disp : BitVec 12
deriving DecidableEq, Repr

/-- The operand of a format-4 instruction (30_encoding.md R60): modes, indexed flag, unsigned 20-bit address. -/
structure F4Operand where
  abs : AbsMode
  rel : RelMode
  indexed : Bool
  address : BitVec 20
deriving DecidableEq, Repr

/-- The instruction set, in the order of the opcode maps of 30_encoding.md R62 (F1), R63 (F2) and R64 (SIC, F3, F4).
An F2 constructor carries both nibbles of its second byte, used or not, so that every bit of the encoding has a field
(30_encoding.md R57, R69). -/
inductive Instr where
  | float
  | fix
  | norm
  | sio
  | hio
  | tio
  | addr (r1 r2 : BitVec 4)
  | subr (r1 r2 : BitVec 4)
  | mulr (r1 r2 : BitVec 4)
  | divr (r1 r2 : BitVec 4)
  | compr (r1 r2 : BitVec 4)
  | shiftl (r1 r2 : BitVec 4)
  | shiftr (r1 r2 : BitVec 4)
  | rmo (r1 r2 : BitVec 4)
  | svc (r1 r2 : BitVec 4)
  | clear (r1 r2 : BitVec 4)
  | tixr (r1 r2 : BitVec 4)
  | ldaSic (m : SicOperand)
  | ldaF3 (m : F3Operand)
  | ldaF4 (m : F4Operand)
  | ldxSic (m : SicOperand)
  | ldxF3 (m : F3Operand)
  | ldxF4 (m : F4Operand)
  | ldlSic (m : SicOperand)
  | ldlF3 (m : F3Operand)
  | ldlF4 (m : F4Operand)
  | staSic (m : SicOperand)
  | staF3 (m : F3Operand)
  | staF4 (m : F4Operand)
  | stxSic (m : SicOperand)
  | stxF3 (m : F3Operand)
  | stxF4 (m : F4Operand)
  | stlSic (m : SicOperand)
  | stlF3 (m : F3Operand)
  | stlF4 (m : F4Operand)
  | addSic (m : SicOperand)
  | addF3 (m : F3Operand)
  | addF4 (m : F4Operand)
  | subSic (m : SicOperand)
  | subF3 (m : F3Operand)
  | subF4 (m : F4Operand)
  | mulSic (m : SicOperand)
  | mulF3 (m : F3Operand)
  | mulF4 (m : F4Operand)
  | divSic (m : SicOperand)
  | divF3 (m : F3Operand)
  | divF4 (m : F4Operand)
  | compSic (m : SicOperand)
  | compF3 (m : F3Operand)
  | compF4 (m : F4Operand)
  | tixSic (m : SicOperand)
  | tixF3 (m : F3Operand)
  | tixF4 (m : F4Operand)
  | jeqSic (m : SicOperand)
  | jeqF3 (m : F3Operand)
  | jeqF4 (m : F4Operand)
  | jgtSic (m : SicOperand)
  | jgtF3 (m : F3Operand)
  | jgtF4 (m : F4Operand)
  | jltSic (m : SicOperand)
  | jltF3 (m : F3Operand)
  | jltF4 (m : F4Operand)
  | jSic (m : SicOperand)
  | jF3 (m : F3Operand)
  | jF4 (m : F4Operand)
  | andSic (m : SicOperand)
  | andF3 (m : F3Operand)
  | andF4 (m : F4Operand)
  | orSic (m : SicOperand)
  | orF3 (m : F3Operand)
  | orF4 (m : F4Operand)
  | jsubSic (m : SicOperand)
  | jsubF3 (m : F3Operand)
  | jsubF4 (m : F4Operand)
  | rsubSic (m : SicOperand)
  | rsubF3 (m : F3Operand)
  | rsubF4 (m : F4Operand)
  | ldchSic (m : SicOperand)
  | ldchF3 (m : F3Operand)
  | ldchF4 (m : F4Operand)
  | stchSic (m : SicOperand)
  | stchF3 (m : F3Operand)
  | stchF4 (m : F4Operand)
  | addfSic (m : SicOperand)
  | addfF3 (m : F3Operand)
  | addfF4 (m : F4Operand)
  | subfSic (m : SicOperand)
  | subfF3 (m : F3Operand)
  | subfF4 (m : F4Operand)
  | mulfSic (m : SicOperand)
  | mulfF3 (m : F3Operand)
  | mulfF4 (m : F4Operand)
  | divfSic (m : SicOperand)
  | divfF3 (m : F3Operand)
  | divfF4 (m : F4Operand)
  | ldbSic (m : SicOperand)
  | ldbF3 (m : F3Operand)
  | ldbF4 (m : F4Operand)
  | ldsSic (m : SicOperand)
  | ldsF3 (m : F3Operand)
  | ldsF4 (m : F4Operand)
  | ldfSic (m : SicOperand)
  | ldfF3 (m : F3Operand)
  | ldfF4 (m : F4Operand)
  | ldtSic (m : SicOperand)
  | ldtF3 (m : F3Operand)
  | ldtF4 (m : F4Operand)
  | stbSic (m : SicOperand)
  | stbF3 (m : F3Operand)
  | stbF4 (m : F4Operand)
  | stsSic (m : SicOperand)
  | stsF3 (m : F3Operand)
  | stsF4 (m : F4Operand)
  | stfSic (m : SicOperand)
  | stfF3 (m : F3Operand)
  | stfF4 (m : F4Operand)
  | sttSic (m : SicOperand)
  | sttF3 (m : F3Operand)
  | sttF4 (m : F4Operand)
  | compfSic (m : SicOperand)
  | compfF3 (m : F3Operand)
  | compfF4 (m : F4Operand)
  | lpsSic (m : SicOperand)
  | lpsF3 (m : F3Operand)
  | lpsF4 (m : F4Operand)
  | stiSic (m : SicOperand)
  | stiF3 (m : F3Operand)
  | stiF4 (m : F4Operand)
  | rdSic (m : SicOperand)
  | rdF3 (m : F3Operand)
  | rdF4 (m : F4Operand)
  | wdSic (m : SicOperand)
  | wdF3 (m : F3Operand)
  | wdF4 (m : F4Operand)
  | tdSic (m : SicOperand)
  | tdF3 (m : F3Operand)
  | tdF4 (m : F4Operand)
  | stswSic (m : SicOperand)
  | stswF3 (m : F3Operand)
  | stswF4 (m : F4Operand)
  | sskSic (m : SicOperand)
  | sskF3 (m : F3Operand)
  | sskF4 (m : F4Operand)
deriving DecidableEq, Repr

end Sys2Proof
end

