-- ==== Sys2Proof/WellFormed.lean ====
section
/-! DEFINITION. Which instruction terms are syntactically valid (spec/30_encoding.md R69): an F3 or F4 operand has an
absolute mode other than SIC, because (n,i) = (0,0) is what makes an instruction SIC format (R61, R66). The other
conditions of R69 (fields within range, 4-bit register ids, the modes of SIC format) hold by the operands' types. -/

namespace Sys2Proof

/-- A format-3 operand is valid when its absolute mode is not SIC (30_encoding.md R69). -/
def F3Operand.wellFormed (m : F3Operand) : Bool := m.abs != .sic

/-- A format-4 operand is valid when its absolute mode is not SIC (30_encoding.md R69). -/
def F4Operand.wellFormed (m : F4Operand) : Bool := m.abs != .sic

/-- The instruction is syntactically valid (30_encoding.md R69). -/
def Instr.wellFormed : Instr → Bool
  | .float => true
  | .fix => true
  | .norm => true
  | .sio => true
  | .hio => true
  | .tio => true
  | .addr _ _ => true
  | .subr _ _ => true
  | .mulr _ _ => true
  | .divr _ _ => true
  | .compr _ _ => true
  | .shiftl _ _ => true
  | .shiftr _ _ => true
  | .rmo _ _ => true
  | .svc _ _ => true
  | .clear _ _ => true
  | .tixr _ _ => true
  | .ldaSic _ => true
  | .ldaF3 m => m.wellFormed
  | .ldaF4 m => m.wellFormed
  | .ldxSic _ => true
  | .ldxF3 m => m.wellFormed
  | .ldxF4 m => m.wellFormed
  | .ldlSic _ => true
  | .ldlF3 m => m.wellFormed
  | .ldlF4 m => m.wellFormed
  | .staSic _ => true
  | .staF3 m => m.wellFormed
  | .staF4 m => m.wellFormed
  | .stxSic _ => true
  | .stxF3 m => m.wellFormed
  | .stxF4 m => m.wellFormed
  | .stlSic _ => true
  | .stlF3 m => m.wellFormed
  | .stlF4 m => m.wellFormed
  | .addSic _ => true
  | .addF3 m => m.wellFormed
  | .addF4 m => m.wellFormed
  | .subSic _ => true
  | .subF3 m => m.wellFormed
  | .subF4 m => m.wellFormed
  | .mulSic _ => true
  | .mulF3 m => m.wellFormed
  | .mulF4 m => m.wellFormed
  | .divSic _ => true
  | .divF3 m => m.wellFormed
  | .divF4 m => m.wellFormed
  | .compSic _ => true
  | .compF3 m => m.wellFormed
  | .compF4 m => m.wellFormed
  | .tixSic _ => true
  | .tixF3 m => m.wellFormed
  | .tixF4 m => m.wellFormed
  | .jeqSic _ => true
  | .jeqF3 m => m.wellFormed
  | .jeqF4 m => m.wellFormed
  | .jgtSic _ => true
  | .jgtF3 m => m.wellFormed
  | .jgtF4 m => m.wellFormed
  | .jltSic _ => true
  | .jltF3 m => m.wellFormed
  | .jltF4 m => m.wellFormed
  | .jSic _ => true
  | .jF3 m => m.wellFormed
  | .jF4 m => m.wellFormed
  | .andSic _ => true
  | .andF3 m => m.wellFormed
  | .andF4 m => m.wellFormed
  | .orSic _ => true
  | .orF3 m => m.wellFormed
  | .orF4 m => m.wellFormed
  | .jsubSic _ => true
  | .jsubF3 m => m.wellFormed
  | .jsubF4 m => m.wellFormed
  | .rsubSic _ => true
  | .rsubF3 m => m.wellFormed
  | .rsubF4 m => m.wellFormed
  | .ldchSic _ => true
  | .ldchF3 m => m.wellFormed
  | .ldchF4 m => m.wellFormed
  | .stchSic _ => true
  | .stchF3 m => m.wellFormed
  | .stchF4 m => m.wellFormed
  | .addfSic _ => true
  | .addfF3 m => m.wellFormed
  | .addfF4 m => m.wellFormed
  | .subfSic _ => true
  | .subfF3 m => m.wellFormed
  | .subfF4 m => m.wellFormed
  | .mulfSic _ => true
  | .mulfF3 m => m.wellFormed
  | .mulfF4 m => m.wellFormed
  | .divfSic _ => true
  | .divfF3 m => m.wellFormed
  | .divfF4 m => m.wellFormed
  | .ldbSic _ => true
  | .ldbF3 m => m.wellFormed
  | .ldbF4 m => m.wellFormed
  | .ldsSic _ => true
  | .ldsF3 m => m.wellFormed
  | .ldsF4 m => m.wellFormed
  | .ldfSic _ => true
  | .ldfF3 m => m.wellFormed
  | .ldfF4 m => m.wellFormed
  | .ldtSic _ => true
  | .ldtF3 m => m.wellFormed
  | .ldtF4 m => m.wellFormed
  | .stbSic _ => true
  | .stbF3 m => m.wellFormed
  | .stbF4 m => m.wellFormed
  | .stsSic _ => true
  | .stsF3 m => m.wellFormed
  | .stsF4 m => m.wellFormed
  | .stfSic _ => true
  | .stfF3 m => m.wellFormed
  | .stfF4 m => m.wellFormed
  | .sttSic _ => true
  | .sttF3 m => m.wellFormed
  | .sttF4 m => m.wellFormed
  | .compfSic _ => true
  | .compfF3 m => m.wellFormed
  | .compfF4 m => m.wellFormed
  | .lpsSic _ => true
  | .lpsF3 m => m.wellFormed
  | .lpsF4 m => m.wellFormed
  | .stiSic _ => true
  | .stiF3 m => m.wellFormed
  | .stiF4 m => m.wellFormed
  | .rdSic _ => true
  | .rdF3 m => m.wellFormed
  | .rdF4 m => m.wellFormed
  | .wdSic _ => true
  | .wdF3 m => m.wellFormed
  | .wdF4 m => m.wellFormed
  | .tdSic _ => true
  | .tdF3 m => m.wellFormed
  | .tdF4 m => m.wellFormed
  | .stswSic _ => true
  | .stswF3 m => m.wellFormed
  | .stswF4 m => m.wellFormed
  | .sskSic _ => true
  | .sskF3 m => m.wellFormed
  | .sskF4 m => m.wellFormed

end Sys2Proof
end

