-- ==== Sys2Proof/Decode.lean ====
section
/-! DEFINITION. The instruction codec (spec/30_encoding.md): the opcode maps, the classifier, decoding one instruction,
the stream decoder with its Unknown/data bytes and leftover, and the encoder. -/

namespace Sys2Proof

/-! ## Operations and the structured view of an instruction -/

/-- The six format-1 operations (R62). -/
inductive Op1 where
  | float | fix | norm | sio | hio | tio
deriving DecidableEq, Repr

/-- The eleven format-2 operations (R63). -/
inductive Op2 where
  | addr | subr | mulr | divr | compr | shiftl | shiftr | rmo | svc | clear | tixr
deriving DecidableEq, Repr

/-- The forty-two operations of the formats SIC, F3 and F4 (R64). -/
inductive Op34 where
  | lda | ldx | ldl | sta | stx | stl | add | sub | mul | div | comp | tix | jeq | jgt
  | jlt | j | and | or | jsub | rsub | ldch | stch | addf | subf | mulf | divf | ldb | lds
  | ldf | ldt | stb | sts | stf | stt | compf | lps | sti | rd | wd | td | stsw | ssk
deriving DecidableEq, Repr

/-- An instruction by its format (10_state.md R35): the operation, and the fields its format carries. -/
inductive Shape where
  | f1 (op : Op1)
  | f2 (op : Op2) (r1 r2 : BitVec 4)
  | sic (op : Op34) (m : SicOperand)
  | f3 (op : Op34) (m : F3Operand)
  | f4 (op : Op34) (m : F4Operand)
deriving DecidableEq, Repr

/-- The operation and fields of an instruction. -/
def Instr.shape : Instr → Shape
  | .float => .f1 .float
  | .fix => .f1 .fix
  | .norm => .f1 .norm
  | .sio => .f1 .sio
  | .hio => .f1 .hio
  | .tio => .f1 .tio
  | .addr r1 r2 => .f2 .addr r1 r2
  | .subr r1 r2 => .f2 .subr r1 r2
  | .mulr r1 r2 => .f2 .mulr r1 r2
  | .divr r1 r2 => .f2 .divr r1 r2
  | .compr r1 r2 => .f2 .compr r1 r2
  | .shiftl r1 r2 => .f2 .shiftl r1 r2
  | .shiftr r1 r2 => .f2 .shiftr r1 r2
  | .rmo r1 r2 => .f2 .rmo r1 r2
  | .svc r1 r2 => .f2 .svc r1 r2
  | .clear r1 r2 => .f2 .clear r1 r2
  | .tixr r1 r2 => .f2 .tixr r1 r2
  | .ldaSic m => .sic .lda m
  | .ldaF3 m => .f3 .lda m
  | .ldaF4 m => .f4 .lda m
  | .ldxSic m => .sic .ldx m
  | .ldxF3 m => .f3 .ldx m
  | .ldxF4 m => .f4 .ldx m
  | .ldlSic m => .sic .ldl m
  | .ldlF3 m => .f3 .ldl m
  | .ldlF4 m => .f4 .ldl m
  | .staSic m => .sic .sta m
  | .staF3 m => .f3 .sta m
  | .staF4 m => .f4 .sta m
  | .stxSic m => .sic .stx m
  | .stxF3 m => .f3 .stx m
  | .stxF4 m => .f4 .stx m
  | .stlSic m => .sic .stl m
  | .stlF3 m => .f3 .stl m
  | .stlF4 m => .f4 .stl m
  | .addSic m => .sic .add m
  | .addF3 m => .f3 .add m
  | .addF4 m => .f4 .add m
  | .subSic m => .sic .sub m
  | .subF3 m => .f3 .sub m
  | .subF4 m => .f4 .sub m
  | .mulSic m => .sic .mul m
  | .mulF3 m => .f3 .mul m
  | .mulF4 m => .f4 .mul m
  | .divSic m => .sic .div m
  | .divF3 m => .f3 .div m
  | .divF4 m => .f4 .div m
  | .compSic m => .sic .comp m
  | .compF3 m => .f3 .comp m
  | .compF4 m => .f4 .comp m
  | .tixSic m => .sic .tix m
  | .tixF3 m => .f3 .tix m
  | .tixF4 m => .f4 .tix m
  | .jeqSic m => .sic .jeq m
  | .jeqF3 m => .f3 .jeq m
  | .jeqF4 m => .f4 .jeq m
  | .jgtSic m => .sic .jgt m
  | .jgtF3 m => .f3 .jgt m
  | .jgtF4 m => .f4 .jgt m
  | .jltSic m => .sic .jlt m
  | .jltF3 m => .f3 .jlt m
  | .jltF4 m => .f4 .jlt m
  | .jSic m => .sic .j m
  | .jF3 m => .f3 .j m
  | .jF4 m => .f4 .j m
  | .andSic m => .sic .and m
  | .andF3 m => .f3 .and m
  | .andF4 m => .f4 .and m
  | .orSic m => .sic .or m
  | .orF3 m => .f3 .or m
  | .orF4 m => .f4 .or m
  | .jsubSic m => .sic .jsub m
  | .jsubF3 m => .f3 .jsub m
  | .jsubF4 m => .f4 .jsub m
  | .rsubSic m => .sic .rsub m
  | .rsubF3 m => .f3 .rsub m
  | .rsubF4 m => .f4 .rsub m
  | .ldchSic m => .sic .ldch m
  | .ldchF3 m => .f3 .ldch m
  | .ldchF4 m => .f4 .ldch m
  | .stchSic m => .sic .stch m
  | .stchF3 m => .f3 .stch m
  | .stchF4 m => .f4 .stch m
  | .addfSic m => .sic .addf m
  | .addfF3 m => .f3 .addf m
  | .addfF4 m => .f4 .addf m
  | .subfSic m => .sic .subf m
  | .subfF3 m => .f3 .subf m
  | .subfF4 m => .f4 .subf m
  | .mulfSic m => .sic .mulf m
  | .mulfF3 m => .f3 .mulf m
  | .mulfF4 m => .f4 .mulf m
  | .divfSic m => .sic .divf m
  | .divfF3 m => .f3 .divf m
  | .divfF4 m => .f4 .divf m
  | .ldbSic m => .sic .ldb m
  | .ldbF3 m => .f3 .ldb m
  | .ldbF4 m => .f4 .ldb m
  | .ldsSic m => .sic .lds m
  | .ldsF3 m => .f3 .lds m
  | .ldsF4 m => .f4 .lds m
  | .ldfSic m => .sic .ldf m
  | .ldfF3 m => .f3 .ldf m
  | .ldfF4 m => .f4 .ldf m
  | .ldtSic m => .sic .ldt m
  | .ldtF3 m => .f3 .ldt m
  | .ldtF4 m => .f4 .ldt m
  | .stbSic m => .sic .stb m
  | .stbF3 m => .f3 .stb m
  | .stbF4 m => .f4 .stb m
  | .stsSic m => .sic .sts m
  | .stsF3 m => .f3 .sts m
  | .stsF4 m => .f4 .sts m
  | .stfSic m => .sic .stf m
  | .stfF3 m => .f3 .stf m
  | .stfF4 m => .f4 .stf m
  | .sttSic m => .sic .stt m
  | .sttF3 m => .f3 .stt m
  | .sttF4 m => .f4 .stt m
  | .compfSic m => .sic .compf m
  | .compfF3 m => .f3 .compf m
  | .compfF4 m => .f4 .compf m
  | .lpsSic m => .sic .lps m
  | .lpsF3 m => .f3 .lps m
  | .lpsF4 m => .f4 .lps m
  | .stiSic m => .sic .sti m
  | .stiF3 m => .f3 .sti m
  | .stiF4 m => .f4 .sti m
  | .rdSic m => .sic .rd m
  | .rdF3 m => .f3 .rd m
  | .rdF4 m => .f4 .rd m
  | .wdSic m => .sic .wd m
  | .wdF3 m => .f3 .wd m
  | .wdF4 m => .f4 .wd m
  | .tdSic m => .sic .td m
  | .tdF3 m => .f3 .td m
  | .tdF4 m => .f4 .td m
  | .stswSic m => .sic .stsw m
  | .stswF3 m => .f3 .stsw m
  | .stswF4 m => .f4 .stsw m
  | .sskSic m => .sic .ssk m
  | .sskF3 m => .f3 .ssk m
  | .sskF4 m => .f4 .ssk m

/-- The format-1 instruction of an operation. -/
def Op1.instr : Op1 → Instr
  | .float => .float
  | .fix => .fix
  | .norm => .norm
  | .sio => .sio
  | .hio => .hio
  | .tio => .tio

/-- The format-2 instruction of an operation. -/
def Op2.instr (r1 r2 : BitVec 4) : Op2 → Instr
  | .addr => .addr r1 r2
  | .subr => .subr r1 r2
  | .mulr => .mulr r1 r2
  | .divr => .divr r1 r2
  | .compr => .compr r1 r2
  | .shiftl => .shiftl r1 r2
  | .shiftr => .shiftr r1 r2
  | .rmo => .rmo r1 r2
  | .svc => .svc r1 r2
  | .clear => .clear r1 r2
  | .tixr => .tixr r1 r2

/-- The SIC format instruction of an operation. -/
def Op34.sicInstr (m : SicOperand) : Op34 → Instr
  | .lda => .ldaSic m
  | .ldx => .ldxSic m
  | .ldl => .ldlSic m
  | .sta => .staSic m
  | .stx => .stxSic m
  | .stl => .stlSic m
  | .add => .addSic m
  | .sub => .subSic m
  | .mul => .mulSic m
  | .div => .divSic m
  | .comp => .compSic m
  | .tix => .tixSic m
  | .jeq => .jeqSic m
  | .jgt => .jgtSic m
  | .jlt => .jltSic m
  | .j => .jSic m
  | .and => .andSic m
  | .or => .orSic m
  | .jsub => .jsubSic m
  | .rsub => .rsubSic m
  | .ldch => .ldchSic m
  | .stch => .stchSic m
  | .addf => .addfSic m
  | .subf => .subfSic m
  | .mulf => .mulfSic m
  | .divf => .divfSic m
  | .ldb => .ldbSic m
  | .lds => .ldsSic m
  | .ldf => .ldfSic m
  | .ldt => .ldtSic m
  | .stb => .stbSic m
  | .sts => .stsSic m
  | .stf => .stfSic m
  | .stt => .sttSic m
  | .compf => .compfSic m
  | .lps => .lpsSic m
  | .sti => .stiSic m
  | .rd => .rdSic m
  | .wd => .wdSic m
  | .td => .tdSic m
  | .stsw => .stswSic m
  | .ssk => .sskSic m

/-- The format F3 instruction of an operation. -/
def Op34.f3Instr (m : F3Operand) : Op34 → Instr
  | .lda => .ldaF3 m
  | .ldx => .ldxF3 m
  | .ldl => .ldlF3 m
  | .sta => .staF3 m
  | .stx => .stxF3 m
  | .stl => .stlF3 m
  | .add => .addF3 m
  | .sub => .subF3 m
  | .mul => .mulF3 m
  | .div => .divF3 m
  | .comp => .compF3 m
  | .tix => .tixF3 m
  | .jeq => .jeqF3 m
  | .jgt => .jgtF3 m
  | .jlt => .jltF3 m
  | .j => .jF3 m
  | .and => .andF3 m
  | .or => .orF3 m
  | .jsub => .jsubF3 m
  | .rsub => .rsubF3 m
  | .ldch => .ldchF3 m
  | .stch => .stchF3 m
  | .addf => .addfF3 m
  | .subf => .subfF3 m
  | .mulf => .mulfF3 m
  | .divf => .divfF3 m
  | .ldb => .ldbF3 m
  | .lds => .ldsF3 m
  | .ldf => .ldfF3 m
  | .ldt => .ldtF3 m
  | .stb => .stbF3 m
  | .sts => .stsF3 m
  | .stf => .stfF3 m
  | .stt => .sttF3 m
  | .compf => .compfF3 m
  | .lps => .lpsF3 m
  | .sti => .stiF3 m
  | .rd => .rdF3 m
  | .wd => .wdF3 m
  | .td => .tdF3 m
  | .stsw => .stswF3 m
  | .ssk => .sskF3 m

/-- The format F4 instruction of an operation. -/
def Op34.f4Instr (m : F4Operand) : Op34 → Instr
  | .lda => .ldaF4 m
  | .ldx => .ldxF4 m
  | .ldl => .ldlF4 m
  | .sta => .staF4 m
  | .stx => .stxF4 m
  | .stl => .stlF4 m
  | .add => .addF4 m
  | .sub => .subF4 m
  | .mul => .mulF4 m
  | .div => .divF4 m
  | .comp => .compF4 m
  | .tix => .tixF4 m
  | .jeq => .jeqF4 m
  | .jgt => .jgtF4 m
  | .jlt => .jltF4 m
  | .j => .jF4 m
  | .and => .andF4 m
  | .or => .orF4 m
  | .jsub => .jsubF4 m
  | .rsub => .rsubF4 m
  | .ldch => .ldchF4 m
  | .stch => .stchF4 m
  | .addf => .addfF4 m
  | .subf => .subfF4 m
  | .mulf => .mulfF4 m
  | .divf => .divfF4 m
  | .ldb => .ldbF4 m
  | .lds => .ldsF4 m
  | .ldf => .ldfF4 m
  | .ldt => .ldtF4 m
  | .stb => .stbF4 m
  | .sts => .stsF4 m
  | .stf => .stfF4 m
  | .stt => .sttF4 m
  | .compf => .compfF4 m
  | .lps => .lpsF4 m
  | .sti => .stiF4 m
  | .rd => .rdF4 m
  | .wd => .wdF4 m
  | .td => .tdF4 m
  | .stsw => .stswF4 m
  | .ssk => .sskF4 m

/-- The instruction with a given operation and fields. -/
def Instr.ofShape : Shape → Instr
  | .f1 op => op.instr
  | .f2 op r1 r2 => op.instr r1 r2
  | .sic op m => op.sicInstr m
  | .f3 op m => op.f3Instr m
  | .f4 op m => op.f4Instr m

/-! ## The opcode maps (R62, R63, R64; log entry 4) -/

/-- `byte0` of a format-1 instruction (R62). -/
def Op1.code : Op1 → Byte
  | .float => 0xC0
  | .fix => 0xC4
  | .norm => 0xC8
  | .sio => 0xF0
  | .hio => 0xF4
  | .tio => 0xF8

/-- `byte0` of a format-2 instruction (R63). -/
def Op2.code : Op2 → Byte
  | .addr => 0x90
  | .subr => 0x94
  | .mulr => 0x98
  | .divr => 0x9C
  | .compr => 0xA0
  | .shiftl => 0xA4
  | .shiftr => 0xA8
  | .rmo => 0xAC
  | .svc => 0xB0
  | .clear => 0xB4
  | .tixr => 0xB8

/-- The opcode of a SIC, F3 or F4 instruction: `byte0` with n = i = 0 (R64). -/
def Op34.code : Op34 → Byte
  | .lda => 0x00
  | .ldx => 0x04
  | .ldl => 0x08
  | .sta => 0x0C
  | .stx => 0x10
  | .stl => 0x14
  | .add => 0x18
  | .sub => 0x1C
  | .mul => 0x20
  | .div => 0x24
  | .comp => 0x28
  | .tix => 0x2C
  | .jeq => 0x30
  | .jgt => 0x34
  | .jlt => 0x38
  | .j => 0x3C
  | .and => 0x40
  | .or => 0x44
  | .jsub => 0x48
  | .rsub => 0x4C
  | .ldch => 0x50
  | .stch => 0x54
  | .addf => 0x58
  | .subf => 0x5C
  | .mulf => 0x60
  | .divf => 0x64
  | .ldb => 0x68
  | .lds => 0x6C
  | .ldf => 0x70
  | .ldt => 0x74
  | .stb => 0x78
  | .sts => 0x7C
  | .stf => 0x80
  | .stt => 0x84
  | .compf => 0x88
  | .lps => 0xD0
  | .sti => 0xD4
  | .rd => 0xD8
  | .wd => 0xDC
  | .td => 0xE0
  | .stsw => 0xE8
  | .ssk => 0xEC

/-- The F1 table, in the order of R62. -/
def Op1.all : List Op1 :=
  [.float, .fix, .norm, .sio, .hio, .tio]

/-- The F2 table, in the order of R63. -/
def Op2.all : List Op2 :=
  [.addr, .subr, .mulr, .divr, .compr, .shiftl, .shiftr, .rmo, .svc, .clear, .tixr]

/-- The F3/4 table, in the order of R64. -/
def Op34.all : List Op34 :=
  [.lda, .ldx, .ldl, .sta, .stx, .stl, .add, .sub, .mul, .div, .comp, .tix,
   .jeq, .jgt, .jlt, .j, .and, .or, .jsub, .rsub, .ldch, .stch, .addf, .subf,
   .mulf, .divf, .ldb, .lds, .ldf, .ldt, .stb, .sts, .stf, .stt, .compf, .lps,
   .sti, .rd, .wd, .td, .stsw, .ssk]

/-- The F1 table lookup: all eight bits of `byte0` are compared (R61 step 1). -/
def Op1.ofByte? (b0 : Byte) : Option Op1 := Op1.all.find? fun op => op.code == b0

/-- The F2 table lookup: all eight bits of `byte0` are compared (R61 step 2). -/
def Op2.ofByte? (b0 : Byte) : Option Op2 := Op2.all.find? fun op => op.code == b0

/-- The F3/4 table lookup on `byte0 & 0xFC` (R61 step 3). -/
def Op34.ofByte? (b0 : Byte) : Option Op34 := Op34.all.find? fun op => op.code == b0 &&& 0xFC

/-! ## The classifier (R61) -/

/-- What the classifier finds: the format together with the table row that matched. -/
inductive Class where
  | f1 (op : Op1)
  | f2 (op : Op2)
  | sic (op : Op34)
  | f3 (op : Op34)
  | f4 (op : Op34)
deriving DecidableEq, Repr

/-- `classify(b0, b1)` (R61): `none` is `DecodeError(InvalidOpcode, b0)`. Only the last two steps look at `b1`. -/
def classify (b0 b1 : Byte) : Option Class :=
  match Op1.ofByte? b0 with
  | some op => some (.f1 op)
  | none =>
    match Op2.ofByte? b0 with
    | some op => some (.f2 op)
    | none =>
      match Op34.ofByte? b0 with
      | none => none
      | some op =>
        if b0.extractLsb' 0 2 = 0 then some (.sic op)
        else if b1.getLsbD 4 then some (.f4 op)
        else some (.f3 op)

/-- `b0` starts no instruction (R65): it is in none of the three tables. -/
def illegalFirstByte (b0 : Byte) : Bool := (classify b0 0).isNone

/-- The second byte decides between F3 and F4 (R61 steps 5 and 6, R74): `b0` is in the F3/4 table alone and its bits
n and i are not both 0. -/
def needsSecondByte (b0 : Byte) : Bool :=
  match classify b0 0 with
  | some (.f3 _) => true
  | some (.f4 _) => true
  | some (.f1 _) => false
  | some (.f2 _) => false
  | some (.sic _) => false
  | none => false

/-- The length in bytes of an instruction of a class (R55). -/
def Class.length : Class → Nat
  | .f1 _ => 1
  | .f2 _ => 2
  | .sic _ => 3
  | .f3 _ => 3
  | .f4 _ => 4

/-! ## Decoding one instruction (R66) -/

/-- The absolute mode of the bits (n,i), the two low bits of `byte0` (R66). -/
def AbsMode.ofBits (ni : BitVec 2) : AbsMode :=
  if ni = 0b00 then .sic else if ni = 0b01 then .immediate else if ni = 0b10 then .indirect else .direct

/-- The bits (n,i) of an absolute mode (R68). -/
def AbsMode.bits : AbsMode → BitVec 2
  | .sic => 0b00
  | .immediate => 0b01
  | .indirect => 0b10
  | .direct => 0b11

/-- The relative mode of the bits (b,p), bits 6 and 5 of `byte1` (R66). -/
def RelMode.ofBits (bp : BitVec 2) : RelMode :=
  if bp = 0b00 then .direct else if bp = 0b01 then .pcRel else if bp = 0b10 then .baseRel else .invalid

/-- The bits (b,p) of a relative mode (R68). -/
def RelMode.bits : RelMode → BitVec 2
  | .direct => 0b00
  | .pcRel => 0b01
  | .baseRel => 0b10
  | .invalid => 0b11

/-- The bytes 1 and 2 of a SIC-format instruction: x, then the 15-bit address (R58, R66). -/
def SicOperand.ofBytes (b1 b2 : Byte) : SicOperand where
  indexed := b1.getLsbD 7
  address := b1.extractLsb' 0 7 ++ b2

/-- n and i from `byte0`; x, b, p and the 12-bit displacement from the bytes 1 and 2 (R59, R66). -/
def F3Operand.ofBytes (b0 b1 b2 : Byte) : F3Operand where
  abs := .ofBits (b0.extractLsb' 0 2)
  rel := .ofBits (b1.extractLsb' 5 2)
  indexed := b1.getLsbD 7
  disp := b1.extractLsb' 0 4 ++ b2

/-- n and i from `byte0`; x, b, p and the 20-bit address from the bytes 1 to 3 (R60, R66). -/
def F4Operand.ofBytes (b0 b1 b2 b3 : Byte) : F4Operand where
  abs := .ofBits (b0.extractLsb' 0 2)
  rel := .ofBits (b1.extractLsb' 5 2)
  indexed := b1.getLsbD 7
  address := b1.extractLsb' 0 4 ++ b2 ++ b3

/-- `decodeOne` (R66) on the bytes of a classified instruction; bytes its format does not have are not looked at. -/
def decodeOne (b0 b1 b2 b3 : Byte) : Class → Shape
  | .f1 op => .f1 op
  | .f2 op => .f2 op (b1.extractLsb' 4 4) (b1.extractLsb' 0 4)
  | .sic op => .sic op (.ofBytes b1 b2)
  | .f3 op => .f3 op (.ofBytes b0 b1 b2)
  | .f4 op => .f4 op (.ofBytes b0 b1 b2 b3)

/-- Why the decoder gives no instruction. -/
inductive Reject where
  /-- `DecodeError(InvalidOpcode, b0)` (R61): the first byte starts no instruction. -/
  | invalidOpcode (b0 : Byte)
  /-- There are fewer bytes than the format requires (R67): the rest of the instruction is still to come. -/
  | incomplete
deriving DecidableEq, Repr

/-- The instruction at the head of a byte list, with the bytes after it (R61, R66). A missing second byte leaves the
choice between F3 and F4 open, and then at least three bytes are needed (R67), which are not there either. -/
def decode : List Byte → Except Reject (Instr × List Byte)
  | [] => .error .incomplete
  | b0 :: rest =>
    match classify b0 (rest.getD 0 0) with
    | none => .error (.invalidOpcode b0)
    | some c =>
      if rest.length + 1 < c.length then .error .incomplete
      else .ok (.ofShape (decodeOne b0 (rest.getD 0 0) (rest.getD 1 0) (rest.getD 2 0) c), rest.drop (c.length - 1))

/-! ## Encoding (R68) -/

/-- `byte0` of an F3 or F4 instruction: `opcode | (n << 1) | i` (R68). -/
def opcodeByte (op : Op34) (abs : AbsMode) : Byte := op.code ||| abs.bits.setWidth 8

/-- `byte1` of an F3 or F4 instruction: x, b, p, e and the high nibble of the field (R68). -/
def modeByte (indexed : Bool) (rel : RelMode) (e : Bool) (high : BitVec 4) : Byte :=
  BitVec.ofBool indexed ++ rel.bits ++ BitVec.ofBool e ++ high

/-- The bytes of an instruction, `byte0` first (R68). -/
def Shape.bytes : Shape → List Byte
  | .f1 op => [op.code]
  | .f2 op r1 r2 => [op.code, r1 ++ r2]
  | .sic op m => [op.code, BitVec.ofBool m.indexed ++ m.address.extractLsb' 8 7, m.address.extractLsb' 0 8]
  | .f3 op m =>
    [opcodeByte op m.abs, modeByte m.indexed m.rel false (m.disp.extractLsb' 8 4), m.disp.extractLsb' 0 8]
  | .f4 op m =>
    [opcodeByte op m.abs, modeByte m.indexed m.rel true (m.address.extractLsb' 16 4),
     m.address.extractLsb' 8 8, m.address.extractLsb' 0 8]

/-- `encode(ins)` (R68). -/
def encode (i : Instr) : List Byte := i.shape.bytes

/-! ## The structured Instruction (10_state.md R35) -/

/-- The format of an instruction (R55). -/
def Shape.format : Shape → Format
  | .f1 _ => .f1
  | .f2 _ _ _ => .f2
  | .sic _ _ => .sic
  | .f3 _ _ => .f3
  | .f4 _ _ => .f4

/-- The fixed length of a format in bytes (R55). -/
def Format.length : Format → Nat
  | .f1 => 1
  | .f2 => 2
  | .sic => 3
  | .f3 => 3
  | .f4 => 4
  | .unknown => 1

/-- The length of an instruction in bytes (R55). -/
def Instr.length (i : Instr) : Nat := i.shape.format.length

/-- The addressing fields of a SIC, F3 or F4 instruction (10_state.md R35): relative mode, absolute mode, indexed flag
and the field as an integer (R66: unsigned in SIC and F4, signed in F3). -/
structure Mode where
  rel : RelMode
  abs : AbsMode
  indexed : Bool
  field : Int
deriving DecidableEq, Repr

/-- SIC format: always Direct relative, SIC absolute (R58, R66). -/
def SicOperand.mode (m : SicOperand) : Mode := ⟨.direct, .sic, m.indexed, m.address.toNat⟩

/-- Format 3: the displacement is sign-extended in every mode (R66). -/
def F3Operand.mode (m : F3Operand) : Mode := ⟨m.rel, m.abs, m.indexed, m.disp.toInt⟩

/-- Format 4: the address is not sign-extended (R66). -/
def F4Operand.mode (m : F4Operand) : Mode := ⟨m.rel, m.abs, m.indexed, m.address.toNat⟩

/-- What the codec produces at an address (R67, 10_state.md R29): an instruction, or the one-byte Unknown/data
pseudo-instruction, which is never executed. -/
inductive Entry where
  | ins (i : Instr)
  | unknown (b : Byte)
deriving DecidableEq, Repr

/-- The format of an entry (10_state.md R35). -/
def Entry.format : Entry → Format
  | .ins i => i.shape.format
  | .unknown _ => .unknown

/-- The raw bytes of an entry; Unknown/data carries exactly one (10_state.md R35). -/
def Entry.bytes : Entry → List Byte
  | .ins i => encode i
  | .unknown b => [b]

/-- The length of an entry in bytes (R55). -/
def Entry.length (e : Entry) : Nat := e.format.length

/-- The opcode of an entry: all of `byte0` for F1, F2 and Unknown, `byte0 & 0xFC` for SIC, F3 and F4
(10_state.md R35). -/
def Entry.opcode : Entry → Byte
  | .unknown b => b
  | .ins i =>
    match i.shape with
    | .f1 op => op.code
    | .f2 op _ _ => op.code
    | .sic op _ => op.code
    | .f3 op _ => op.code
    | .f4 op _ => op.code

/-- The register nibbles, present for F2 (10_state.md R35). -/
def Entry.registers? : Entry → Option (BitVec 4 × BitVec 4)
  | .unknown _ => none
  | .ins i =>
    match i.shape with
    | .f2 _ r1 r2 => some (r1, r2)
    | .f1 _ => none
    | .sic _ _ => none
    | .f3 _ _ => none
    | .f4 _ _ => none

/-- The addressing fields, present for SIC, F3 and F4 (10_state.md R35). -/
def Entry.mode? : Entry → Option Mode
  | .unknown _ => none
  | .ins i =>
    match i.shape with
    | .sic _ m => some m.mode
    | .f3 _ m => some m.mode
    | .f4 _ m => some m.mode
    | .f1 _ => none
    | .f2 _ _ _ => none

/-! ## The stream decoder (R67) -/

/-- `decodeStream` with a bound on the number of entries: the byte count is always enough, since every entry takes at
least one byte. -/
def decodeStreamAux : Nat → List Byte → Nat → List (Nat × Entry) × List Byte
  | 0, buf, _ => ([], buf)
  | _ + 1, [], _ => ([], [])
  | fuel + 1, b0 :: rest, a =>
    match decode (b0 :: rest) with
    | .error .incomplete => ([], b0 :: rest)
    | .error (.invalidOpcode _) =>
      let out := decodeStreamAux fuel rest (a + 1)
      ((a, .unknown b0) :: out.1, out.2)
    | .ok (i, rest') =>
      let out := decodeStreamAux fuel rest' (a + i.length)
      ((a, .ins i) :: out.1, out.2)

/-- `decodeStream(buf, a0)` (R67): the entries with their addresses, and the leftover bytes of an unfinished
instruction at the end. A byte that starts no instruction becomes an Unknown/data entry. -/
def decodeStream (buf : List Byte) (a0 : Nat) : List (Nat × Entry) × List Byte :=
  decodeStreamAux buf.length buf a0

/-! ## Mnemonics (R62 to R64, R72) -/

/-- The mnemonic of a format-1 operation (30_encoding.md R62 to R64). -/
def Op1.name : Op1 → Text
  | .float => ['F', 'L', 'O', 'A', 'T']
  | .fix => ['F', 'I', 'X']
  | .norm => ['N', 'O', 'R', 'M']
  | .sio => ['S', 'I', 'O']
  | .hio => ['H', 'I', 'O']
  | .tio => ['T', 'I', 'O']

/-- The mnemonic of a format-2 operation (30_encoding.md R62 to R64). -/
def Op2.name : Op2 → Text
  | .addr => ['A', 'D', 'D', 'R']
  | .subr => ['S', 'U', 'B', 'R']
  | .mulr => ['M', 'U', 'L', 'R']
  | .divr => ['D', 'I', 'V', 'R']
  | .compr => ['C', 'O', 'M', 'P', 'R']
  | .shiftl => ['S', 'H', 'I', 'F', 'T', 'L']
  | .shiftr => ['S', 'H', 'I', 'F', 'T', 'R']
  | .rmo => ['R', 'M', 'O']
  | .svc => ['S', 'V', 'C']
  | .clear => ['C', 'L', 'E', 'A', 'R']
  | .tixr => ['T', 'I', 'X', 'R']

/-- The mnemonic of a F3/4 operation (30_encoding.md R62 to R64). -/
def Op34.name : Op34 → Text
  | .lda => ['L', 'D', 'A']
  | .ldx => ['L', 'D', 'X']
  | .ldl => ['L', 'D', 'L']
  | .sta => ['S', 'T', 'A']
  | .stx => ['S', 'T', 'X']
  | .stl => ['S', 'T', 'L']
  | .add => ['A', 'D', 'D']
  | .sub => ['S', 'U', 'B']
  | .mul => ['M', 'U', 'L']
  | .div => ['D', 'I', 'V']
  | .comp => ['C', 'O', 'M', 'P']
  | .tix => ['T', 'I', 'X']
  | .jeq => ['J', 'E', 'Q']
  | .jgt => ['J', 'G', 'T']
  | .jlt => ['J', 'L', 'T']
  | .j => ['J']
  | .and => ['A', 'N', 'D']
  | .or => ['O', 'R']
  | .jsub => ['J', 'S', 'U', 'B']
  | .rsub => ['R', 'S', 'U', 'B']
  | .ldch => ['L', 'D', 'C', 'H']
  | .stch => ['S', 'T', 'C', 'H']
  | .addf => ['A', 'D', 'D', 'F']
  | .subf => ['S', 'U', 'B', 'F']
  | .mulf => ['M', 'U', 'L', 'F']
  | .divf => ['D', 'I', 'V', 'F']
  | .ldb => ['L', 'D', 'B']
  | .lds => ['L', 'D', 'S']
  | .ldf => ['L', 'D', 'F']
  | .ldt => ['L', 'D', 'T']
  | .stb => ['S', 'T', 'B']
  | .sts => ['S', 'T', 'S']
  | .stf => ['S', 'T', 'F']
  | .stt => ['S', 'T', 'T']
  | .compf => ['C', 'O', 'M', 'P', 'F']
  | .lps => ['L', 'P', 'S']
  | .sti => ['S', 'T', 'I']
  | .rd => ['R', 'D']
  | .wd => ['W', 'D']
  | .td => ['T', 'D']
  | .stsw => ['S', 'T', 'S', 'W']
  | .ssk => ['S', 'S', 'K']

/-! ## The host's view of the decoder -/

/-- The bytes of the `nbits`-bit number `w` as spec/opcode_table.json numbers them: `byte0` is the most significant byte
(30_encoding.md, first paragraph; log entry 9). -/
def tableBytes (nbits w : Nat) : List Byte :=
  (List.range (nbits / 8)).map fun k => BitVec.ofNat 8 (w >>> (8 * (nbits / 8 - 1 - k)))

/-- The bytes of `tableBytes`, filled up with zero bytes to the longest instruction (four bytes). -/
def tableBytesPadded (nbits w : Nat) : List Byte :=
  tableBytes nbits w ++ List.replicate (4 - nbits / 8) 0

/-- The instruction the decoder reads from the instruction whose table word is `w`. -/
def decodeTableWord (nbits w : Nat) : Option Instr :=
  match decode (tableBytesPadded nbits w) with
  | .ok (i, _) => some i
  | .error _ => none

end Sys2Proof
end

