-- ==== Sys2Proof/Machine/State.lean ====
section
/-! DEFINITION. The state of the machine (spec/10_state.md) as plain data, the errors it reports (60_exceptions.md R241),
and its reset values (10_state.md R36). INVENTORY.md lists every field with the rule that names it. -/

namespace Sys2Proof.Machine

/-! ## Errors -/

/-- The run-time errors a Step can report (60_exceptions.md R241; 92_eei_decisions.md D29). An error is no stop of the
model: the Step ends in a next state whose trace carries it (R240; log entry 1). -/
inductive StepError where
  /-- `AddressError`: a byte of the access of `width` bytes at `addr` lies above 0xFFFFF (20_memory.md R43). -/
  | addressError (addr width : Nat)
  /-- `DecodeError(InvalidOpcode)`: the entry at PC is Unknown/data (42_interpreter_cycle.md R108). -/
  | invalidOpcode (byte : Byte)
  /-- `DecodeError(InvalidBP)`: b = p = 1 (41_address_resolver.md R91); the instruction stands in the trace. -/
  | invalidBP
  /-- `DecodeError(ImmediateTarget)`: a store with absolute mode Immediate (41_address_resolver.md R94). -/
  | immediateTarget
  /-- `RegisterError(InvalidRegister, id)` (10_state.md R22, R23). -/
  | invalidRegister (id : BitVec 4)
  /-- `ArithmeticError(DivisionByZero)` (40_alu_word24.md R80). -/
  | divisionByZero
  /-- `DeviceError(d)`: the device collaborator answers Error (46_device_io.md R191, R192). -/
  | deviceError (device : Byte)
deriving DecidableEq, Repr

/-- The load-time errors of the object reader (60_exceptions.md R253), each with its line number (48_object_format.md
R234). For the two errors of the whole file it is the line on which the text ends (log entry 21). -/
inductive FormatError where
  /-- A line that is no record, or a record out of its place (48_object_format.md R221). -/
  | malformedRecord (line : Nat)
  /-- A T record that runs past 0xFFFFF (48_object_format.md R228). -/
  | addressRange (line : Nat)
  /-- A T record that does not continue a buffered instruction (48_object_format.md R229). -/
  | nonContiguous (line : Nat)
  /-- The file ends inside a load unit (48_object_format.md R232). -/
  | missingEnd (line : Nat)
  /-- A file with no record (48_object_format.md R232). -/
  | empty (line : Nat)
deriving DecidableEq, Repr

/-- The kinds of `AssemblyError` (60_exceptions.md R253). -/
inductive AssemblyErrorKind where
  /-- A label with no mnemonic (30_encoding.md R70). -/
  | labelWithoutMnemonic
  /-- A token that is neither a symbol nor a literal (41_address_resolver.md R97). -/
  | unresolvedSymbol
  /-- A format-4 operand outside [0, 0xFFFFF] (41_address_resolver.md R100). -/
  | operandRange
deriving DecidableEq, Repr

/-- `AssemblyError` with its line number (60_exceptions.md R241, R253). -/
structure AssemblyError where
  kind : AssemblyErrorKind
  line : Nat
deriving DecidableEq, Repr

/-- The reasons for which a step of this model stops with a fault: NONE. The machine has no trap and no stuck state;
every error is reported in a next state and the machine accepts a further Step (60_exceptions.md R240, R244; log
entry 1). Safe: nothing is claimed of a stopped machine. -/
inductive Fault where
deriving DecidableEq, Repr

/-- The reasons for which a step is refused. -/
inductive Refusal where
  /-- Raised by an arm of `exec` whose instruction has no meaning yet, under its mnemonic; safe, because the model then
  says nothing about the instruction. No arm of this model raises it. -/
  | notModelled (mnemonic : String)
deriving DecidableEq, Repr

/-! ## The parts of the state -/

/-- The nine registers (10_state.md R20): eight of 24 bits and F of 48 bits (R24). -/
structure Regs where
  A : Word
  X : Word
  L : Word
  B : Word
  S : Word
  T : Word
  F : Wide
  PC : Word
  SW : Word
deriving DecidableEq, Repr

/-- The names of the nine registers (10_state.md R20). -/
inductive Reg where
  | A | X | L | B | S | T | F | PC | SW
deriving DecidableEq, Repr

/-- Memory (10_state.md R28) as the list of the bytes that differ from what an unlisted address reads as, addresses
strictly rising (`Memory.wf`; log entry 7). -/
abbrev Memory := List Host.Cell

/-- The decoded entries of the program image, addresses strictly rising (10_state.md R29; log entry 7). -/
abbrev Entries := List (Nat × Entry)

/-- The program image with the two addresses that travel with it (10_state.md R29, R30). -/
structure Image where
  entries : Entries
  entry : Word
  lastByteAddr : Option Nat
deriving DecidableEq, Repr

/-- The interpreter's status (10_state.md R31); `fetching` and `executing` exist only inside a Step. -/
inductive Status where
  | idle | fetching | executing | halted
deriving DecidableEq, Repr

/-- The interpreter's status and the run-mode control bits (10_state.md R31, R32). -/
structure Control where
  status : Status
  running : Bool
  stopRequested : Bool
deriving DecidableEq, Repr

/-- The loader's own state, alive only during a load (10_state.md R33): the leftover bytes, the address of the first of
them, and the continuation address. -/
structure Loader where
  left : List Byte
  leftAddr : Option Nat
  expect : Option Nat
deriving DecidableEq, Repr

/-- The `InstructionTrace` of a Step (42_interpreter_cycle.md R114): an output, which no rule reads. DESIGN CHOICE: it is
a field of the state, and what it holds of a Step that raised an error is settled here (log entry 3). -/
structure Trace where
  /-- The instruction address a0. -/
  a0 : Word
  /-- The fetched Instruction or Unknown/data entry; none when the fetch failed, or before the first Step. -/
  entry : Option Entry
  /-- The resolved address, when the format has one and it was resolved. -/
  addr : Option Word
  /-- A resync happened. -/
  resynced : Bool
  /-- The `Unimplemented` notice (47_unimplemented_noops.md R200); not set by a no-op that raised `InvalidBP`. -/
  unimplemented : Bool
  /-- The error, if one was raised. -/
  error : Option StepError
  /-- The status after the Step. -/
  status : Status
deriving DecidableEq, Repr

/-- The device port as the machine sees it (46_device_io.md R190; log entry 2): the collaborator's answers to the next
reads and writes, as far as they are scripted, and the calls made so far with their answers, oldest first. -/
structure DevicePort where
  readScript : List (Option Byte)
  writeScript : List Bool
  events : List DevEvent
deriving DecidableEq, Repr

/-- The whole state. -/
structure State where
  regs : Regs
  mem : Memory
  image : Image
  control : Control
  loader : Loader
  trace : Trace
  dev : DevicePort
deriving DecidableEq, Repr

/-! ## Reset (10_state.md R36, 70_reset_and_hazards.md R260) -/

/-- All nine registers zero (10_state.md R36). -/
def Regs.zero : Regs := ⟨0, 0, 0, 0, 0, 0, 0, 0, 0⟩

/-- The loader's state outside a load (10_state.md R33, R36). -/
def Loader.none : Loader := ⟨[], Option.none, Option.none⟩

/-- The image of a machine on which nothing was loaded (10_state.md R36, D21, D22). -/
def Image.empty : Image := ⟨[], 0, Option.none⟩

/-- The trace before any Step (log entry 3). -/
def Trace.none : Trace := ⟨0, Option.none, Option.none, false, false, Option.none, .idle⟩

/-- No answer scripted and no call made (log entry 2). -/
def DevicePort.fresh : DevicePort := ⟨[], [], []⟩

/-- The machine right after reset (10_state.md R36). -/
def State.reset : State where
  regs := .zero
  mem := []
  image := .empty
  control := ⟨.idle, false, false⟩
  loader := .none
  trace := .none
  dev := .fresh

end Sys2Proof.Machine
end

