-- ==== Sys2Proof/Machine/Ops.lean ====
section
/-! DEFINITION. The named operations over memory, registers, the image, the device port and the interpreter's cycle.
Reporting an error, which is all the "exception entry" this machine has (spec/60_exceptions.md R240, R244), is the one
operation `State.report`; there is no return from it (R245). -/

namespace Sys2Proof.Machine

/-- What a meaning answers. -/
abbrev Out := Host.Outcome State Fault Refusal

/-! ## Memory (20_memory.md) -/

/-- The byte at an address; an unlisted address reads as its reset value (10_state.md R36). -/
def Memory.get : Memory → Nat → Byte
  | [], _ => Config.unlistedByte
  | (k, b) :: rest, a => if k = a then b else Memory.get rest a

/-- The memory with one byte replaced, in canonical form. -/
def Memory.set : Memory → Nat → Byte → Memory
  | [], a, v => if v = Config.unlistedByte then [] else [(a, v)]
  | (k, b) :: rest, a, v =>
    if a < k then (if v = Config.unlistedByte then (k, b) :: rest else (a, v) :: (k, b) :: rest)
    else if a = k then (if v = Config.unlistedByte then rest else (a, v) :: rest)
    else (k, b) :: Memory.set rest a v

/-- `n` bytes from an address on, in address order. -/
def Memory.getBytes (m : Memory) (a : Nat) : Nat → List Byte
  | 0 => []
  | n + 1 => m.get a :: Memory.getBytes m (a + 1) n

/-- The memory with consecutive bytes replaced, the first at `a`. -/
def Memory.setBytes (m : Memory) (a : Nat) : List Byte → Memory
  | [] => m
  | b :: bs => Memory.setBytes (m.set a b) (a + 1) bs

/-- The canonical form of a memory: addresses strictly rising and below the memory's size, no byte listed that an
unlisted address reads as (log entry 7). -/
def Memory.wf : Memory → Bool
  | [] => true
  | [(k, b)] => decide (k < Config.memSize) && b != Config.unlistedByte
  | (k, b) :: (k', b') :: rest =>
    decide (k < k') && b != Config.unlistedByte && Memory.wf ((k', b') :: rest)

/-- All `n` bytes from `addr` on exist, computed without wrap (20_memory.md R41, R43). -/
def inRange (addr n : Nat) : Bool := decide (addr + n ≤ Config.memSize)

/-- `MemReadBytes(addr, k)` (20_memory.md R41). -/
def memReadBytes (m : Memory) (addr k : Nat) : Except StepError (List Byte) :=
  if inRange addr k then .ok (m.getBytes addr k) else .error (.addressError addr k)

/-- `MemWriteBytes(addr, bytes)` (20_memory.md R42): an access partly out of range writes nothing. -/
def memWriteBytes (m : Memory) (addr : Nat) (bytes : List Byte) : Except StepError Memory :=
  if inRange addr bytes.length then .ok (m.setBytes addr bytes) else .error (.addressError addr bytes.length)

/-- The three bytes of a Word24, most significant first (20_memory.md R40, 40_alu_word24.md R75). -/
def wordBytes (w : Word) : List Byte := [w.extractLsb' 16 8, w.extractLsb' 8 8, w.extractLsb' 0 8]

/-- The six bytes of a Word48, most significant first (20_memory.md R40). -/
def wideBytes (w : Wide) : List Byte :=
  [w.extractLsb' 40 8, w.extractLsb' 32 8, w.extractLsb' 24 8, w.extractLsb' 16 8, w.extractLsb' 8 8, w.extractLsb' 0 8]

/-- `MemRead(addr, 1)` (20_memory.md R41). -/
def memReadByte (m : Memory) (addr : Nat) : Except StepError Byte :=
  if inRange addr 1 then .ok (m.get addr) else .error (.addressError addr 1)

/-- `MemRead(addr, 3)`: the first byte is the most significant (20_memory.md R40, R41). -/
def memReadWord (m : Memory) (addr : Nat) : Except StepError Word :=
  if inRange addr 3 then .ok (m.get addr ++ m.get (addr + 1) ++ m.get (addr + 2))
  else .error (.addressError addr 3)

/-- `MemRead(addr, 6)`, which no instruction performs (20_memory.md R40, R41, R45). -/
def memReadWide (m : Memory) (addr : Nat) : Except StepError Wide :=
  if inRange addr 6 then
    .ok (m.get addr ++ m.get (addr + 1) ++ m.get (addr + 2) ++ m.get (addr + 3) ++ m.get (addr + 4) ++ m.get (addr + 5))
  else .error (.addressError addr 6)

/-- `MemWrite(addr, 1, v)` (20_memory.md R42). -/
def memWriteByte (m : Memory) (addr : Nat) (v : Byte) : Except StepError Memory := memWriteBytes m addr [v]

/-- `MemWrite(addr, 3, v)` (20_memory.md R42). -/
def memWriteWord (m : Memory) (addr : Nat) (v : Word) : Except StepError Memory := memWriteBytes m addr (wordBytes v)

/-- `MemWrite(addr, 6, v)`, which no instruction performs (20_memory.md R42, R45). -/
def memWriteWide (m : Memory) (addr : Nat) (v : Wide) : Except StepError Memory := memWriteBytes m addr (wideBytes v)

/-! ## Registers (10_state.md) -/

/-- A register as a Word24; F gives its first three bytes (10_state.md R20, R22). -/
def Regs.get (r : Regs) : Reg → Word
  | .A => r.A
  | .X => r.X
  | .L => r.L
  | .B => r.B
  | .S => r.S
  | .T => r.T
  | .F => r.F.extractLsb' 24 24
  | .PC => r.PC
  | .SW => r.SW

/-- A register written with a Word24; F gets it as its first three bytes and zeros after them (10_state.md R23). -/
def Regs.set (r : Regs) (name : Reg) (v : Word) : Regs :=
  match name with
  | .A => { r with A := v }
  | .X => { r with X := v }
  | .L => { r with L := v }
  | .B => { r with B := v }
  | .S => { r with S := v }
  | .T => { r with T := v }
  | .F => { r with F := v ++ (0 : Word) }
  | .PC => { r with PC := v }
  | .SW => { r with SW := v }

/-- The register of a 4-bit id (10_state.md R21; log entry 5); 7 and 10 to 15 are undefined. -/
def Reg.ofId? (id : BitVec 4) : Option Reg :=
  match id.toNat with
  | 0 => some .A
  | 1 => some .X
  | 2 => some .L
  | 3 => some .B
  | 4 => some .S
  | 5 => some .T
  | 6 => some .F
  | 8 => some .PC
  | 9 => some .SW
  | _ => none

/-- The register of an id, or `RegisterError(InvalidRegister, id)` (10_state.md R21 to R23). -/
def lookupReg (id : BitVec 4) : Except StepError Reg :=
  match Reg.ofId? id with
  | some r => .ok r
  | none => .error (.invalidRegister id)

/-- The state with one register written. -/
def State.setReg (s : State) (name : Reg) (v : Word) : State := { s with regs := s.regs.set name v }

/-- The state with another memory. -/
def State.setMem (s : State) (m : Memory) : State := { s with mem := m }

/-! ## The program image (10_state.md R29) -/

/-- The entry at an address. -/
def Entries.lookup : Entries → Nat → Option Entry
  | [], _ => none
  | (k, e) :: rest, a => if k = a then some e else Entries.lookup rest a

/-- The entries with the one at an address set, addresses kept rising. -/
def Entries.insert : Entries → Nat → Entry → Entries
  | [], a, e => [(a, e)]
  | (k, x) :: rest, a, e =>
    if a < k then (a, e) :: (k, x) :: rest
    else if a = k then (a, e) :: rest
    else (k, x) :: Entries.insert rest a e

/-- The entries with a list of others set, one after the other. -/
def Entries.insertAll (es : Entries) : List (Nat × Entry) → Entries
  | [] => es
  | (a, e) :: rest => Entries.insertAll (es.insert a e) rest

/-- The entries below an address (42_interpreter_cycle.md R107: those at and above it are deleted). -/
def Entries.below (es : Entries) (a : Nat) : Entries := es.filter fun p => decide (p.1 < a)

/-- The entries without the one at an address. -/
def Entries.erase (es : Entries) (a : Nat) : Entries := es.filter fun p => p.1 != a

/-- The canonical form of the entries: addresses strictly rising and below the memory's size (log entry 7). -/
def Entries.wf : Entries → Bool
  | [] => true
  | [(k, _)] => decide (k < Config.memSize)
  | (k, _) :: (k', e') :: rest => decide (k < k') && Entries.wf ((k', e') :: rest)

/-! ## The interpreter's cycle (42_interpreter_cycle.md R105) -/

/-- The beginning of a Step: `status <- Fetching`, and a fresh trace with the instruction's address. -/
def State.beginStep (s : State) : State :=
  { s with
    control := { s.control with status := .fetching }
    trace := { Trace.none with a0 := s.regs.PC } }

/-- `PC <- mask24(a0 + len)` and `status <- Executing` (R105; 10_state.md R25). The trace has no result yet. -/
def State.advance (s : State) (len : Nat) : State :=
  { s with
    regs := { s.regs with PC := s.regs.PC + BitVec.ofNat 24 len }
    control := { s.control with status := .executing }
    trace := { s.trace with addr := none, unimplemented := false, error := none } }

/-- The resolved address goes into the trace (R114). -/
def State.noteAddr (s : State) (addr : Word) : State := { s with trace := { s.trace with addr := some addr } }

/-- The `Unimplemented` notice goes into the trace (R114; 47_unimplemented_noops.md R200). -/
def State.noteUnimplemented (s : State) : State := { s with trace := { s.trace with unimplemented := true } }

/-- The end of a Step with a status (R105). -/
def State.endStep (s : State) (st : Status) : State :=
  { s with control := { s.control with status := st }, trace := { s.trace with status := st } }

/-- The end of a Step that neither halts nor reports an error: `status <- Idle` (R105). -/
def State.retire (s : State) : State := s.endStep .idle

/-- `raise E(info)` (60_exceptions.md R240): the Step ends, the error goes into the trace, `status <- Idle`. PC keeps
the value it has at that moment, and nothing else is written (R243; log entry 1). -/
def State.report (s : State) (e : StepError) : State :=
  { s with
    control := { s.control with status := .idle }
    trace := { s.trace with error := some e, status := .idle } }

/-- Goes on with a value, or ends the Step with the error raised for want of one (60_exceptions.md R240). -/
def State.attempt {α : Type} (s : State) (r : Except StepError α) (k : α → Out) : Out :=
  match r with
  | .ok v => k v
  | .error e => .next (s.report e)

/-! ## The device port (46_device_io.md R190) -/

/-- The answer `DEV.readByte(d)` gives now: the scripted one, or the free value where none is scripted. -/
def DevicePort.readAnswer (p : DevicePort) (d : Byte) : Option Byte :=
  match p.readScript with
  | a :: _ => a
  | [] => Config.readAnswer p.events d

/-- Whether `DEV.writeByte(d, b)` succeeds now: as scripted, or the free value where nothing is scripted. -/
def DevicePort.writeAnswer (p : DevicePort) (d b : Byte) : Bool :=
  match p.writeScript with
  | a :: _ => a
  | [] => Config.writeAnswer p.events d b

/-- One call of `DEV.readByte(d)`: its answer is used up and the event recorded. -/
def State.callRead (s : State) (d : Byte) : State :=
  { s with dev :=
    { s.dev with
      readScript := s.dev.readScript.tail
      events := s.dev.events ++ [.read d (s.dev.readAnswer d)] } }

/-- One call of `DEV.writeByte(d, b)`: its answer is used up and the event recorded. -/
def State.callWrite (s : State) (d b : Byte) : State :=
  { s with dev :=
    { s.dev with
      writeScript := s.dev.writeScript.tail
      events := s.dev.events ++ [.write d b (s.dev.writeAnswer d b)] } }

end Sys2Proof.Machine
end

