-- ==== Sys2Proof/Machine/Alu.lean ====
section
/-! DEFINITION. The fixed-width arithmetic and bitwise unit WordArithmetic (spec/40_alu_word24.md) and its text rendering
(R84). The unit has no state and no flags. -/

namespace Sys2Proof.Machine

/-- `add24(a, b) = mask24(a + b)` (R76). -/
def add24 (a b : Word) : Word := a + b

/-- `sub24(a, b) = mask24(a - b)` (R77). -/
def sub24 (a b : Word) : Word := a - b

/-- `mul24(a, b) = mask24(signed(a) * signed(b))` (R79). -/
def mul24 (a b : Word) : Word := BitVec.ofInt 24 (a.toInt * b.toInt)

/-- `div24(a, b)` (R80): the signed quotient rounded toward zero, masked; zero as divisor is reported. -/
def div24 (a b : Word) : Except StepError Word :=
  if b = 0 then .error .divisionByZero else .ok (BitVec.ofInt 24 (a.toInt.tdiv b.toInt))

/-- `and24` (R81). -/
def and24 (a b : Word) : Word := a &&& b

/-- `or24` (R81). -/
def or24 (a b : Word) : Word := a ||| b

/-- `xor24` (R81), which no instruction reaches. -/
def xor24 (a b : Word) : Word := a ^^^ b

/-- `not24(a) = a xor 0xFFFFFF` (R81), which no instruction reaches. -/
def not24 (a : Word) : Word := a ^^^ 0xFFFFFF

/-- `cmp24(a, b)` in {-1, 0, 1}: the operands are compared as unsigned numbers (R82). -/
def cmp24 (a b : Word) : Int := if a.toNat < b.toNat then -1 else if a = b then 0 else 1

/-! ## Text rendering (R84; log entry 26) -/

/-- The upper-case digit of a value below 16. -/
def hexDigit (n : Nat) : Char := Char.ofNat (if n < 10 then 48 + n else 55 + n)

/-- The value of a hexadecimal digit of either case. -/
def hexDigitValue? (c : Char) : Option Nat :=
  if 48 ≤ c.toNat ∧ c.toNat ≤ 57 then some (c.toNat - 48)
  else if 65 ≤ c.toNat ∧ c.toNat ≤ 70 then some (c.toNat - 55)
  else if 97 ≤ c.toNat ∧ c.toNat ≤ 102 then some (c.toNat - 87)
  else none

/-- A number in a fixed count of hexadecimal digits, most significant first. -/
def hexDigits : Nat → Nat → Text
  | 0, _ => []
  | d + 1, n => hexDigit (n / 16 ^ d % 16) :: hexDigits d n

/-- The number that a list of digits of a base denotes, after the digits already read. -/
def digitsValue? (digit : Char → Option Nat) (base : Nat) : Nat → Text → Option Nat
  | acc, [] => some acc
  | acc, c :: cs =>
    match digit c with
    | some d => digitsValue? digit base (acc * base + d) cs
    | none => none

/-- The number that hexadecimal digits of either case denote; at least one digit. -/
def hexNumber? : Text → Option Nat
  | [] => none
  | c :: cs => digitsValue? hexDigitValue? 16 0 (c :: cs)

/-- `toHex(w)`: six upper-case digits, most significant first. -/
def toHex (w : Word) : Text := hexDigits 6 w.toNat

/-- `fromHex`: 1 to 6 hexadecimal digits of either case. -/
def fromHex (t : Text) : Option Word :=
  if t.length ≤ 6 then (hexNumber? t).map (BitVec.ofNat 24) else none

/-- A number in a fixed count of binary digits, most significant first. -/
def binDigits : Nat → Nat → Text
  | 0, _ => []
  | d + 1, n => (if n.testBit d then '1' else '0') :: binDigits d n

/-- `toBin(w)`: 24 binary digits. -/
def toBin (w : Word) : Text := binDigits 24 w.toNat

/-- The decimal digits of a number, least significant first, with a bound on their count. -/
def decDigitsRev : Nat → Nat → Text
  | 0, _ => []
  | fuel + 1, n => hexDigit (n % 10) :: (if n < 10 then [] else decDigitsRev fuel (n / 10))

/-- The decimal numeral of a number below 10^40, without padding. -/
def decimal (n : Nat) : Text := (decDigitsRev 40 n).reverse

/-- `toDecUnsigned(w)`: the decimal numeral of `unsigned(w)`. -/
def toDecUnsigned (w : Word) : Text := decimal w.toNat

/-- `toDecSigned(w)`: the decimal numeral of `signed(w)`, with a leading minus sign when negative. -/
def toDecSigned (w : Word) : Text :=
  if w.toInt < 0 then '-' :: decimal w.toInt.natAbs else decimal w.toInt.natAbs

end Sys2Proof.Machine
end

