-- ==== Sys2Proof/Machine/Flags.lean ====
section
/-! DEFINITION. The condition code, the only flag of the machine (spec/10_state.md R26). -/

namespace Sys2Proof.Machine

/-- What the status word says of the last compare (10_state.md R26). -/
inductive CC where
  | lt | eq | gt | none
deriving DecidableEq, Repr

/-- `CC` as decoded from `SW[23:22]` (10_state.md R26; log entry 6). -/
def ccOfWord (sw : Word) : CC :=
  if sw.extractLsb' 22 2 = 0b00 then .lt
  else if sw.extractLsb' 22 2 = 0b01 then .eq
  else if sw.extractLsb' 22 2 = 0b10 then .gt
  else .none

/-- The condition code of a state. -/
def State.cc (s : State) : CC := ccOfWord s.regs.SW

/-- The sentinel of an outcome of a compare (10_state.md R26; log entry 6). -/
def lessSentinel : Word := 0x000000

/-- The sentinel for EQ (10_state.md R26). -/
def equalSentinel : Word := 0x400000

/-- The sentinel for GT (10_state.md R26). -/
def greaterSentinel : Word := 0x800000

/-- The sentinel that `setCC(cmp24(a, b))` writes: -1 is LT, 0 is EQ, 1 is GT (40_alu_word24.md R82). -/
def compareSentinel (a b : Word) : Word :=
  if cmp24 a b < 0 then lessSentinel else if cmp24 a b = 0 then equalSentinel else greaterSentinel

/-- `setCC(cmp24(a, b))`: the whole of SW is overwritten (10_state.md R26). -/
def State.setCompare (s : State) (a b : Word) : State := s.setReg .SW (compareSentinel a b)

end Sys2Proof.Machine
end

