-- ==== Sys2Proof/Machine/Operands.lean ====
section
/-! DEFINITION. The decode path of the address resolver (spec/41_address_resolver.md Part A) and the frame in which
every instruction of a format runs (42_interpreter_cycle.md R105): PC is advanced, and for SIC, F3 and F4 the address is
resolved, before the instruction itself. -/

namespace Sys2Proof.Machine

/-! ## Address and operand -/

/-- `resolveAddr(ins, PCpost, B, X)` (R91, R92): relative mode, then indexing, all modulo 2^24. -/
def resolveAddr (m : Mode) (pcPost b x : Word) : Except StepError Word :=
  match m.rel with
  | .invalid => .error .invalidBP
  | .direct => .ok (indexBy (BitVec.ofInt 24 m.field))
  | .pcRel => .ok (indexBy (add24 (BitVec.ofInt 24 m.field) pcPost))
  | .baseRel => .ok (indexBy (add24 (BitVec.ofInt 24 m.field) b))
where
  /-- `If indexed, address += X`, after relative resolution (R92). -/
  indexBy (a : Word) : Word := if m.indexed then add24 a x else a

/-- `operand()` (R93): the word at the address, the address itself, or the word at the word at the address. -/
def operand (m : Memory) (abs : AbsMode) (addr : Word) : Except StepError Word :=
  match abs with
  | .sic => memReadWord m addr.toNat
  | .direct => memReadWord m addr.toNat
  | .immediate => .ok addr
  | .indirect =>
    match memReadWord m addr.toNat with
    | .ok pointer => memReadWord m pointer.toNat
    | .error e => .error e

/-- `target_store()` (R94): where a store goes; Indirect dereferences once, Immediate has no location. -/
def targetStore (m : Memory) (abs : AbsMode) (addr : Word) : Except StepError Word :=
  match abs with
  | .sic => .ok addr
  | .direct => .ok addr
  | .immediate => .error .immediateTarget
  | .indirect => memReadWord m addr.toNat

/-- `byte_operand()` (R94): the byte LDCH takes. -/
def byteOperand (m : Memory) (abs : AbsMode) (addr : Word) : Except StepError Byte :=
  match abs with
  | .sic => memReadByte m addr.toNat
  | .direct => memReadByte m addr.toNat
  | .immediate => .ok (addr.extractLsb' 0 8)
  | .indirect =>
    match memReadWord m addr.toNat with
    | .ok pointer => memReadByte m pointer.toNat
    | .error e => .error e

/-- The low byte of a register replaced: `A[23:8] ++ b` (44_load_store.md R152, 46_device_io.md R191). -/
def withLowByte (w : Word) (b : Byte) : Word := w.extractLsb' 8 16 ++ b

/-- The low byte of a word: `w[7:0]`. -/
def lowByte (w : Word) : Byte := w.extractLsb' 0 8

/-! ## The frame of each format -/

/-- A SIC, F3 or F4 instruction: PC advances, the address is resolved with the post-increment PC and the B and X from
before execution, then the instruction's own effect follows (42_interpreter_cycle.md R105). -/
def runMem (len : Nat) (m : Mode) (effect : AbsMode → Word → State → Out) (s : State) : Out :=
  (s.advance len).attempt (resolveAddr m (s.advance len).regs.PC s.regs.B s.regs.X) fun addr =>
    effect m.abs addr ((s.advance len).noteAddr addr)

/-- A format-1 or format-2 instruction: PC advances, then its own effect follows (42_interpreter_cycle.md R105). -/
def runReg (len : Nat) (effect : State → Out) (s : State) : Out := effect (s.advance len)

/-! ## Effects that several instructions share -/

/-- `v = operand(); reg <- v` (44_load_store.md R145). -/
def loadWord (r : Reg) (abs : AbsMode) (addr : Word) (s : State) : Out :=
  s.attempt (operand s.mem abs addr) fun v => .next (s.setReg r v).retire

/-- `t = target_store(); MemWrite(t, 3, reg)` (44_load_store.md R145). -/
def storeWord (r : Reg) (abs : AbsMode) (addr : Word) (s : State) : Out :=
  s.attempt (targetStore s.mem abs addr) fun t =>
    s.attempt (memWriteWord s.mem t.toNat (s.regs.get r)) fun m => .next (s.setMem m).retire

/-- `v = operand(); A <- f(A, v)` (43_arith_logic_compare.md R125); `f` may raise, before the write. -/
def accumulate (f : Word → Word → Except StepError Word) (abs : AbsMode) (addr : Word) (s : State) : Out :=
  s.attempt (operand s.mem abs addr) fun v =>
    s.attempt (f s.regs.A v) fun w => .next (s.setReg .A w).retire

/-- `v1 = R[r1]; v2 = R[r2]; R[r2] <- f(v2, v1)` (43_arith_logic_compare.md R134 to R137): both ids are checked, r1
first, before anything is written. -/
def combineRegs (f : Word → Word → Except StepError Word) (r1 r2 : BitVec 4) (s : State) : Out :=
  s.attempt (lookupReg r1) fun source => s.attempt (lookupReg r2) fun dest =>
    s.attempt (f (s.regs.get dest) (s.regs.get source)) fun w => .next (s.setReg dest w).retire

/-- A taken jump is `pc <- addr`; a jump not taken leaves PC as advanced (45_jumps.md R165). -/
def branchIf (taken : Bool) (addr : Word) (s : State) : Out :=
  .next (if taken then s.setReg .PC addr else s).retire

/-- `noop(ins)` (47_unimplemented_noops.md R200): nothing but the notice. -/
def noop (s : State) : Out := .next s.noteUnimplemented.retire

/-- `noop(ins)` of a SIC, F3 or F4 instruction, whose address was resolved and is not used (47 R200). -/
def noopMem (_abs : AbsMode) (_addr : Word) (s : State) : Out := noop s

end Sys2Proof.Machine
end

