-- ==== Sys2Proof/Machine/ArithLogic.lean ====
section
/-! DEFINITION. Arithmetic, logic, compare and index with a memory operand (spec/43_arith_logic_compare.md section 1; operand orders:
log entry 28). Each instruction has one effect, which its three formats run after resolving their address. -/

namespace Sys2Proof.Machine

/-- ADD m (R126): `v = operand(); A <- add24(A, v)`. -/
def opAdd (abs : AbsMode) (addr : Word) (s : State) : Out :=
  accumulate (fun a v => .ok (add24 a v)) abs addr s

/-- ADD in SIC format (R126). -/
def execAddSic (m : SicOperand) (s : State) : Out := runMem 3 m.mode opAdd s

/-- ADD in format F3 (R126). -/
def execAddF3 (m : F3Operand) (s : State) : Out := runMem 3 m.mode opAdd s

/-- ADD in format F4 (R126). -/
def execAddF4 (m : F4Operand) (s : State) : Out := runMem 4 m.mode opAdd s

/-- SUB m (R127): `v = operand(); A <- sub24(A, v)`. -/
def opSub (abs : AbsMode) (addr : Word) (s : State) : Out :=
  accumulate (fun a v => .ok (sub24 a v)) abs addr s

/-- SUB in SIC format (R127). -/
def execSubSic (m : SicOperand) (s : State) : Out := runMem 3 m.mode opSub s

/-- SUB in format F3 (R127). -/
def execSubF3 (m : F3Operand) (s : State) : Out := runMem 3 m.mode opSub s

/-- SUB in format F4 (R127). -/
def execSubF4 (m : F4Operand) (s : State) : Out := runMem 4 m.mode opSub s

/-- MUL m (R128): `v = operand(); A <- mul24(A, v)`. -/
def opMul (abs : AbsMode) (addr : Word) (s : State) : Out :=
  accumulate (fun a v => .ok (mul24 a v)) abs addr s

/-- MUL in SIC format (R128). -/
def execMulSic (m : SicOperand) (s : State) : Out := runMem 3 m.mode opMul s

/-- MUL in format F3 (R128). -/
def execMulF3 (m : F3Operand) (s : State) : Out := runMem 3 m.mode opMul s

/-- MUL in format F4 (R128). -/
def execMulF4 (m : F4Operand) (s : State) : Out := runMem 4 m.mode opMul s

/-- DIV m (R129): `v = operand(); A <- div24(A, v)`, or DivisionByZero. -/
def opDiv (abs : AbsMode) (addr : Word) (s : State) : Out :=
  accumulate div24 abs addr s

/-- DIV in SIC format (R129). -/
def execDivSic (m : SicOperand) (s : State) : Out := runMem 3 m.mode opDiv s

/-- DIV in format F3 (R129). -/
def execDivF3 (m : F3Operand) (s : State) : Out := runMem 3 m.mode opDiv s

/-- DIV in format F4 (R129). -/
def execDivF4 (m : F4Operand) (s : State) : Out := runMem 4 m.mode opDiv s

/-- AND m (R130): `v = operand(); A <- and24(A, v)`. -/
def opAnd (abs : AbsMode) (addr : Word) (s : State) : Out :=
  accumulate (fun a v => .ok (and24 a v)) abs addr s

/-- AND in SIC format (R130). -/
def execAndSic (m : SicOperand) (s : State) : Out := runMem 3 m.mode opAnd s

/-- AND in format F3 (R130). -/
def execAndF3 (m : F3Operand) (s : State) : Out := runMem 3 m.mode opAnd s

/-- AND in format F4 (R130). -/
def execAndF4 (m : F4Operand) (s : State) : Out := runMem 4 m.mode opAnd s

/-- OR m (R131): `v = operand(); A <- or24(A, v)`. -/
def opOr (abs : AbsMode) (addr : Word) (s : State) : Out :=
  accumulate (fun a v => .ok (or24 a v)) abs addr s

/-- OR in SIC format (R131). -/
def execOrSic (m : SicOperand) (s : State) : Out := runMem 3 m.mode opOr s

/-- OR in format F3 (R131). -/
def execOrF3 (m : F3Operand) (s : State) : Out := runMem 3 m.mode opOr s

/-- OR in format F4 (R131). -/
def execOrF4 (m : F4Operand) (s : State) : Out := runMem 4 m.mode opOr s

/-- COMP m (R132): `v = operand(); setCC(cmp24(A, v))`. -/
def opComp (abs : AbsMode) (addr : Word) (s : State) : Out :=
  s.attempt (operand s.mem abs addr) fun v => .next (s.setCompare s.regs.A v).retire

/-- COMP in SIC format (R132). -/
def execCompSic (m : SicOperand) (s : State) : Out := runMem 3 m.mode opComp s

/-- COMP in format F3 (R132). -/
def execCompF3 (m : F3Operand) (s : State) : Out := runMem 3 m.mode opComp s

/-- COMP in format F4 (R132). -/
def execCompF4 (m : F4Operand) (s : State) : Out := runMem 4 m.mode opComp s

/-- TIX m (R133): `v = operand(); X <- add24(X, 1); setCC(cmp24(X, v))`. -/
def opTix (abs : AbsMode) (addr : Word) (s : State) : Out :=
  s.attempt (operand s.mem abs addr) fun v =>
    .next ((s.setReg .X (add24 s.regs.X 1)).setCompare (add24 s.regs.X 1) v).retire

/-- TIX in SIC format (R133). -/
def execTixSic (m : SicOperand) (s : State) : Out := runMem 3 m.mode opTix s

/-- TIX in format F3 (R133). -/
def execTixF3 (m : F3Operand) (s : State) : Out := runMem 3 m.mode opTix s

/-- TIX in format F4 (R133). -/
def execTixF4 (m : F4Operand) (s : State) : Out := runMem 4 m.mode opTix s

end Sys2Proof.Machine
end

