-- ==== Sys2Proof/Machine/Devices.lean ====
section
/-! DEFINITION. The device instructions (spec/46_device_io.md; log entries 2 and 15). Each RD and each WD makes exactly one call of the
device port. -/

namespace Sys2Proof.Machine

/-- RD m (R191): `v = operand(); d = v[7:0]; r = DEV.readByte(d); A <- A[23:8] ++ r`, or DeviceError. -/
def opRd (abs : AbsMode) (addr : Word) (s : State) : Out :=
  s.attempt (operand s.mem abs addr) fun v =>
    match s.dev.readAnswer (lowByte v) with
    | some b => .next ((s.callRead (lowByte v)).setReg .A (withLowByte s.regs.A b)).retire
    | none => .next ((s.callRead (lowByte v)).report (.deviceError (lowByte v)))

/-- RD in SIC format (R191). -/
def execRdSic (m : SicOperand) (s : State) : Out := runMem 3 m.mode opRd s

/-- RD in format F3 (R191). -/
def execRdF3 (m : F3Operand) (s : State) : Out := runMem 3 m.mode opRd s

/-- RD in format F4 (R191). -/
def execRdF4 (m : F4Operand) (s : State) : Out := runMem 4 m.mode opRd s

/-- WD m (R192): `v = operand(); d = v[7:0]; DEV.writeByte(d, A[7:0])`, or DeviceError. -/
def opWd (abs : AbsMode) (addr : Word) (s : State) : Out :=
  s.attempt (operand s.mem abs addr) fun v =>
    if s.dev.writeAnswer (lowByte v) (lowByte s.regs.A) then
      .next (s.callWrite (lowByte v) (lowByte s.regs.A)).retire
    else .next ((s.callWrite (lowByte v) (lowByte s.regs.A)).report (.deviceError (lowByte v)))

/-- WD in SIC format (R192). -/
def execWdSic (m : SicOperand) (s : State) : Out := runMem 3 m.mode opWd s

/-- WD in format F3 (R192). -/
def execWdF3 (m : F3Operand) (s : State) : Out := runMem 3 m.mode opWd s

/-- WD in format F4 (R192). -/
def execWdF4 (m : F4Operand) (s : State) : Out := runMem 4 m.mode opWd s

/-- TD m (R193): `v = operand(); setCC(LT)`; the port is not called. -/
def opTd (abs : AbsMode) (addr : Word) (s : State) : Out :=
  s.attempt (operand s.mem abs addr) fun _ => .next (s.setReg .SW lessSentinel).retire

/-- TD in SIC format (R193). -/
def execTdSic (m : SicOperand) (s : State) : Out := runMem 3 m.mode opTd s

/-- TD in format F3 (R193). -/
def execTdF3 (m : F3Operand) (s : State) : Out := runMem 3 m.mode opTd s

/-- TD in format F4 (R193). -/
def execTdF4 (m : F4Operand) (s : State) : Out := runMem 4 m.mode opTd s

end Sys2Proof.Machine
end

