-- ==== Sys2Proof/Machine/Jumps.lean ====
section
/-! DEFINITION. Control transfer (spec/45_jumps.md). The absolute mode is decoded and ignored, and no memory is read (R165). -/

namespace Sys2Proof.Machine

/-- J m (R166): `pc <- addr`, then the halt test of 42_interpreter_cycle.md R109 against the instruction's own address
`a0`. -/
def opJ (a0 : Word) (_abs : AbsMode) (addr : Word) (s : State) : Out :=
  .next ((s.setReg .PC addr).endStep (if addr = a0 then .halted else .idle))

/-- J in SIC format (R166). -/
def execJSic (m : SicOperand) (s : State) : Out := runMem 3 m.mode (opJ s.regs.PC) s

/-- J in format F3 (R166). -/
def execJF3 (m : F3Operand) (s : State) : Out := runMem 3 m.mode (opJ s.regs.PC) s

/-- J in format F4 (R166). -/
def execJF4 (m : F4Operand) (s : State) : Out := runMem 4 m.mode (opJ s.regs.PC) s

/-- JEQ m (R167): `if CC = EQ then pc <- addr`. -/
def opJeq (_abs : AbsMode) (addr : Word) (s : State) : Out :=
  branchIf (s.cc == .eq) addr s

/-- JEQ in SIC format (R167). -/
def execJeqSic (m : SicOperand) (s : State) : Out := runMem 3 m.mode opJeq s

/-- JEQ in format F3 (R167). -/
def execJeqF3 (m : F3Operand) (s : State) : Out := runMem 3 m.mode opJeq s

/-- JEQ in format F4 (R167). -/
def execJeqF4 (m : F4Operand) (s : State) : Out := runMem 4 m.mode opJeq s

/-- JGT m (R168): `if CC = GT then pc <- addr`. -/
def opJgt (_abs : AbsMode) (addr : Word) (s : State) : Out :=
  branchIf (s.cc == .gt) addr s

/-- JGT in SIC format (R168). -/
def execJgtSic (m : SicOperand) (s : State) : Out := runMem 3 m.mode opJgt s

/-- JGT in format F3 (R168). -/
def execJgtF3 (m : F3Operand) (s : State) : Out := runMem 3 m.mode opJgt s

/-- JGT in format F4 (R168). -/
def execJgtF4 (m : F4Operand) (s : State) : Out := runMem 4 m.mode opJgt s

/-- JLT m (R169): `if CC = LT then pc <- addr`. -/
def opJlt (_abs : AbsMode) (addr : Word) (s : State) : Out :=
  branchIf (s.cc == .lt) addr s

/-- JLT in SIC format (R169). -/
def execJltSic (m : SicOperand) (s : State) : Out := runMem 3 m.mode opJlt s

/-- JLT in format F3 (R169). -/
def execJltF3 (m : F3Operand) (s : State) : Out := runMem 3 m.mode opJlt s

/-- JLT in format F4 (R169). -/
def execJltF4 (m : F4Operand) (s : State) : Out := runMem 4 m.mode opJlt s

/-- JSUB m (R170): `L <- PC` (the post-increment PC); `pc <- addr`. -/
def opJsub (_abs : AbsMode) (addr : Word) (s : State) : Out :=
  branchIf true addr (s.setReg .L s.regs.PC)

/-- JSUB in SIC format (R170). -/
def execJsubSic (m : SicOperand) (s : State) : Out := runMem 3 m.mode opJsub s

/-- JSUB in format F3 (R170). -/
def execJsubF3 (m : F3Operand) (s : State) : Out := runMem 3 m.mode opJsub s

/-- JSUB in format F4 (R170). -/
def execJsubF4 (m : F4Operand) (s : State) : Out := runMem 4 m.mode opJsub s

/-- RSUB (R171): `pc <- L`. -/
def opRsub (_abs : AbsMode) (_addr : Word) (s : State) : Out :=
  branchIf true s.regs.L s

/-- RSUB in SIC format (R171). -/
def execRsubSic (m : SicOperand) (s : State) : Out := runMem 3 m.mode opRsub s

/-- RSUB in format F3 (R171). -/
def execRsubF3 (m : F3Operand) (s : State) : Out := runMem 3 m.mode opRsub s

/-- RSUB in format F4 (R171). -/
def execRsubF4 (m : F4Operand) (s : State) : Out := runMem 4 m.mode opRsub s

end Sys2Proof.Machine
end

