-- ==== Sys2Proof/Machine/LoadStore.lean ====
section
/-! DEFINITION. Loads and stores (spec/44_load_store.md). -/

namespace Sys2Proof.Machine

/-- LDA m (R146): `A <- operand()`. -/
def opLda (abs : AbsMode) (addr : Word) (s : State) : Out :=
  loadWord .A abs addr s

/-- LDA in SIC format (R146). -/
def execLdaSic (m : SicOperand) (s : State) : Out := runMem 3 m.mode opLda s

/-- LDA in format F3 (R146). -/
def execLdaF3 (m : F3Operand) (s : State) : Out := runMem 3 m.mode opLda s

/-- LDA in format F4 (R146). -/
def execLdaF4 (m : F4Operand) (s : State) : Out := runMem 4 m.mode opLda s

/-- LDX m (R147): `X <- operand()`. -/
def opLdx (abs : AbsMode) (addr : Word) (s : State) : Out :=
  loadWord .X abs addr s

/-- LDX in SIC format (R147). -/
def execLdxSic (m : SicOperand) (s : State) : Out := runMem 3 m.mode opLdx s

/-- LDX in format F3 (R147). -/
def execLdxF3 (m : F3Operand) (s : State) : Out := runMem 3 m.mode opLdx s

/-- LDX in format F4 (R147). -/
def execLdxF4 (m : F4Operand) (s : State) : Out := runMem 4 m.mode opLdx s

/-- LDL m (R148): `L <- operand()`. -/
def opLdl (abs : AbsMode) (addr : Word) (s : State) : Out :=
  loadWord .L abs addr s

/-- LDL in SIC format (R148). -/
def execLdlSic (m : SicOperand) (s : State) : Out := runMem 3 m.mode opLdl s

/-- LDL in format F3 (R148). -/
def execLdlF3 (m : F3Operand) (s : State) : Out := runMem 3 m.mode opLdl s

/-- LDL in format F4 (R148). -/
def execLdlF4 (m : F4Operand) (s : State) : Out := runMem 4 m.mode opLdl s

/-- LDB m (R149): `B <- operand()`. -/
def opLdb (abs : AbsMode) (addr : Word) (s : State) : Out :=
  loadWord .B abs addr s

/-- LDB in SIC format (R149). -/
def execLdbSic (m : SicOperand) (s : State) : Out := runMem 3 m.mode opLdb s

/-- LDB in format F3 (R149). -/
def execLdbF3 (m : F3Operand) (s : State) : Out := runMem 3 m.mode opLdb s

/-- LDB in format F4 (R149). -/
def execLdbF4 (m : F4Operand) (s : State) : Out := runMem 4 m.mode opLdb s

/-- LDS m (R150): `S <- operand()`. -/
def opLds (abs : AbsMode) (addr : Word) (s : State) : Out :=
  loadWord .S abs addr s

/-- LDS in SIC format (R150). -/
def execLdsSic (m : SicOperand) (s : State) : Out := runMem 3 m.mode opLds s

/-- LDS in format F3 (R150). -/
def execLdsF3 (m : F3Operand) (s : State) : Out := runMem 3 m.mode opLds s

/-- LDS in format F4 (R150). -/
def execLdsF4 (m : F4Operand) (s : State) : Out := runMem 4 m.mode opLds s

/-- LDT m (R151): `T <- operand()`. -/
def opLdt (abs : AbsMode) (addr : Word) (s : State) : Out :=
  loadWord .T abs addr s

/-- LDT in SIC format (R151). -/
def execLdtSic (m : SicOperand) (s : State) : Out := runMem 3 m.mode opLdt s

/-- LDT in format F3 (R151). -/
def execLdtF3 (m : F3Operand) (s : State) : Out := runMem 3 m.mode opLdt s

/-- LDT in format F4 (R151). -/
def execLdtF4 (m : F4Operand) (s : State) : Out := runMem 4 m.mode opLdt s

/-- LDCH m (R152): `b = byte_operand(); A <- A[23:8] ++ b`. -/
def opLdch (abs : AbsMode) (addr : Word) (s : State) : Out :=
  s.attempt (byteOperand s.mem abs addr) fun b => .next (s.setReg .A (withLowByte s.regs.A b)).retire

/-- LDCH in SIC format (R152). -/
def execLdchSic (m : SicOperand) (s : State) : Out := runMem 3 m.mode opLdch s

/-- LDCH in format F3 (R152). -/
def execLdchF3 (m : F3Operand) (s : State) : Out := runMem 3 m.mode opLdch s

/-- LDCH in format F4 (R152). -/
def execLdchF4 (m : F4Operand) (s : State) : Out := runMem 4 m.mode opLdch s

/-- STA m (R153): `t = target_store(); MemWrite(t, 3, A)`. -/
def opSta (abs : AbsMode) (addr : Word) (s : State) : Out :=
  storeWord .A abs addr s

/-- STA in SIC format (R153). -/
def execStaSic (m : SicOperand) (s : State) : Out := runMem 3 m.mode opSta s

/-- STA in format F3 (R153). -/
def execStaF3 (m : F3Operand) (s : State) : Out := runMem 3 m.mode opSta s

/-- STA in format F4 (R153). -/
def execStaF4 (m : F4Operand) (s : State) : Out := runMem 4 m.mode opSta s

/-- STX m (R154): `t = target_store(); MemWrite(t, 3, X)`. -/
def opStx (abs : AbsMode) (addr : Word) (s : State) : Out :=
  storeWord .X abs addr s

/-- STX in SIC format (R154). -/
def execStxSic (m : SicOperand) (s : State) : Out := runMem 3 m.mode opStx s

/-- STX in format F3 (R154). -/
def execStxF3 (m : F3Operand) (s : State) : Out := runMem 3 m.mode opStx s

/-- STX in format F4 (R154). -/
def execStxF4 (m : F4Operand) (s : State) : Out := runMem 4 m.mode opStx s

/-- STL m (R155): `t = target_store(); MemWrite(t, 3, L)`. -/
def opStl (abs : AbsMode) (addr : Word) (s : State) : Out :=
  storeWord .L abs addr s

/-- STL in SIC format (R155). -/
def execStlSic (m : SicOperand) (s : State) : Out := runMem 3 m.mode opStl s

/-- STL in format F3 (R155). -/
def execStlF3 (m : F3Operand) (s : State) : Out := runMem 3 m.mode opStl s

/-- STL in format F4 (R155). -/
def execStlF4 (m : F4Operand) (s : State) : Out := runMem 4 m.mode opStl s

/-- STB m (R156): `t = target_store(); MemWrite(t, 3, B)`. -/
def opStb (abs : AbsMode) (addr : Word) (s : State) : Out :=
  storeWord .B abs addr s

/-- STB in SIC format (R156). -/
def execStbSic (m : SicOperand) (s : State) : Out := runMem 3 m.mode opStb s

/-- STB in format F3 (R156). -/
def execStbF3 (m : F3Operand) (s : State) : Out := runMem 3 m.mode opStb s

/-- STB in format F4 (R156). -/
def execStbF4 (m : F4Operand) (s : State) : Out := runMem 4 m.mode opStb s

/-- STS m (R157): `t = target_store(); MemWrite(t, 3, S)`. -/
def opSts (abs : AbsMode) (addr : Word) (s : State) : Out :=
  storeWord .S abs addr s

/-- STS in SIC format (R157). -/
def execStsSic (m : SicOperand) (s : State) : Out := runMem 3 m.mode opSts s

/-- STS in format F3 (R157). -/
def execStsF3 (m : F3Operand) (s : State) : Out := runMem 3 m.mode opSts s

/-- STS in format F4 (R157). -/
def execStsF4 (m : F4Operand) (s : State) : Out := runMem 4 m.mode opSts s

/-- STT m (R158): `t = target_store(); MemWrite(t, 3, T)`. -/
def opStt (abs : AbsMode) (addr : Word) (s : State) : Out :=
  storeWord .T abs addr s

/-- STT in SIC format (R158). -/
def execSttSic (m : SicOperand) (s : State) : Out := runMem 3 m.mode opStt s

/-- STT in format F3 (R158). -/
def execSttF3 (m : F3Operand) (s : State) : Out := runMem 3 m.mode opStt s

/-- STT in format F4 (R158). -/
def execSttF4 (m : F4Operand) (s : State) : Out := runMem 4 m.mode opStt s

/-- STSW m (R159): `t = target_store(); MemWrite(t, 3, SW)`. -/
def opStsw (abs : AbsMode) (addr : Word) (s : State) : Out :=
  storeWord .SW abs addr s

/-- STSW in SIC format (R159). -/
def execStswSic (m : SicOperand) (s : State) : Out := runMem 3 m.mode opStsw s

/-- STSW in format F3 (R159). -/
def execStswF3 (m : F3Operand) (s : State) : Out := runMem 3 m.mode opStsw s

/-- STSW in format F4 (R159). -/
def execStswF4 (m : F4Operand) (s : State) : Out := runMem 4 m.mode opStsw s

/-- STCH m (R160): `t = target_store(); MemWrite(t, 1, A[7:0])`. -/
def opStch (abs : AbsMode) (addr : Word) (s : State) : Out :=
  s.attempt (targetStore s.mem abs addr) fun t =>
    s.attempt (memWriteByte s.mem t.toNat (lowByte s.regs.A)) fun m => .next (s.setMem m).retire

/-- STCH in SIC format (R160). -/
def execStchSic (m : SicOperand) (s : State) : Out := runMem 3 m.mode opStch s

/-- STCH in format F3 (R160). -/
def execStchF3 (m : F3Operand) (s : State) : Out := runMem 3 m.mode opStch s

/-- STCH in format F4 (R160). -/
def execStchF4 (m : F4Operand) (s : State) : Out := runMem 4 m.mode opStch s

end Sys2Proof.Machine
end

