-- ==== Sys2Proof/Machine/NoOps.lean ====
section
/-! DEFINITION. The declared-but-unimplemented instructions (spec/47_unimplemented_noops.md): explicit no-ops, whose Step carries the
`Unimplemented` notice. No register id is read, no operand fetched, no target formed (R200). -/

namespace Sys2Proof.Machine

/-- FLOAT (R207). -/
def execFloat (s : State) : Out := runReg 1 noop s

/-- FIX (R206). -/
def execFix (s : State) : Out := runReg 1 noop s

/-- NORM (R208). -/
def execNorm (s : State) : Out := runReg 1 noop s

/-- SIO (R211). -/
def execSio (s : State) : Out := runReg 1 noop s

/-- HIO (R213). -/
def execHio (s : State) : Out := runReg 1 noop s

/-- TIO (R212). -/
def execTio (s : State) : Out := runReg 1 noop s

/-- SVC (R214); byte 1 is not interpreted. -/
def execSvc (_r1 _r2 : BitVec 4) (s : State) : Out := runReg 2 noop s

/-- SHIFTL (R218); byte 1 is not interpreted. -/
def execShiftl (_r1 _r2 : BitVec 4) (s : State) : Out := runReg 2 noop s

/-- SHIFTR (R219); byte 1 is not interpreted. -/
def execShiftr (_r1 _r2 : BitVec 4) (s : State) : Out := runReg 2 noop s

/-- ADDF in SIC format (R201). -/
def execAddfSic (m : SicOperand) (s : State) : Out := runMem 3 m.mode noopMem s

/-- ADDF in format F3 (R201). -/
def execAddfF3 (m : F3Operand) (s : State) : Out := runMem 3 m.mode noopMem s

/-- ADDF in format F4 (R201). -/
def execAddfF4 (m : F4Operand) (s : State) : Out := runMem 4 m.mode noopMem s

/-- SUBF in SIC format (R202). -/
def execSubfSic (m : SicOperand) (s : State) : Out := runMem 3 m.mode noopMem s

/-- SUBF in format F3 (R202). -/
def execSubfF3 (m : F3Operand) (s : State) : Out := runMem 3 m.mode noopMem s

/-- SUBF in format F4 (R202). -/
def execSubfF4 (m : F4Operand) (s : State) : Out := runMem 4 m.mode noopMem s

/-- MULF in SIC format (R203). -/
def execMulfSic (m : SicOperand) (s : State) : Out := runMem 3 m.mode noopMem s

/-- MULF in format F3 (R203). -/
def execMulfF3 (m : F3Operand) (s : State) : Out := runMem 3 m.mode noopMem s

/-- MULF in format F4 (R203). -/
def execMulfF4 (m : F4Operand) (s : State) : Out := runMem 4 m.mode noopMem s

/-- DIVF in SIC format (R204). -/
def execDivfSic (m : SicOperand) (s : State) : Out := runMem 3 m.mode noopMem s

/-- DIVF in format F3 (R204). -/
def execDivfF3 (m : F3Operand) (s : State) : Out := runMem 3 m.mode noopMem s

/-- DIVF in format F4 (R204). -/
def execDivfF4 (m : F4Operand) (s : State) : Out := runMem 4 m.mode noopMem s

/-- COMPF in SIC format (R205). -/
def execCompfSic (m : SicOperand) (s : State) : Out := runMem 3 m.mode noopMem s

/-- COMPF in format F3 (R205). -/
def execCompfF3 (m : F3Operand) (s : State) : Out := runMem 3 m.mode noopMem s

/-- COMPF in format F4 (R205). -/
def execCompfF4 (m : F4Operand) (s : State) : Out := runMem 4 m.mode noopMem s

/-- LDF in SIC format (R209). -/
def execLdfSic (m : SicOperand) (s : State) : Out := runMem 3 m.mode noopMem s

/-- LDF in format F3 (R209). -/
def execLdfF3 (m : F3Operand) (s : State) : Out := runMem 3 m.mode noopMem s

/-- LDF in format F4 (R209). -/
def execLdfF4 (m : F4Operand) (s : State) : Out := runMem 4 m.mode noopMem s

/-- STF in SIC format (R210). -/
def execStfSic (m : SicOperand) (s : State) : Out := runMem 3 m.mode noopMem s

/-- STF in format F3 (R210). -/
def execStfF3 (m : F3Operand) (s : State) : Out := runMem 3 m.mode noopMem s

/-- STF in format F4 (R210). -/
def execStfF4 (m : F4Operand) (s : State) : Out := runMem 4 m.mode noopMem s

/-- LPS in SIC format (R215). -/
def execLpsSic (m : SicOperand) (s : State) : Out := runMem 3 m.mode noopMem s

/-- LPS in format F3 (R215). -/
def execLpsF3 (m : F3Operand) (s : State) : Out := runMem 3 m.mode noopMem s

/-- LPS in format F4 (R215). -/
def execLpsF4 (m : F4Operand) (s : State) : Out := runMem 4 m.mode noopMem s

/-- SSK in SIC format (R216). -/
def execSskSic (m : SicOperand) (s : State) : Out := runMem 3 m.mode noopMem s

/-- SSK in format F3 (R216). -/
def execSskF3 (m : F3Operand) (s : State) : Out := runMem 3 m.mode noopMem s

/-- SSK in format F4 (R216). -/
def execSskF4 (m : F4Operand) (s : State) : Out := runMem 4 m.mode noopMem s

/-- STI in SIC format (R217). -/
def execStiSic (m : SicOperand) (s : State) : Out := runMem 3 m.mode noopMem s

/-- STI in format F3 (R217). -/
def execStiF3 (m : F3Operand) (s : State) : Out := runMem 3 m.mode noopMem s

/-- STI in format F4 (R217). -/
def execStiF4 (m : F4Operand) (s : State) : Out := runMem 4 m.mode noopMem s

end Sys2Proof.Machine
end

