-- ==== Sys2Proof/Machine/RegisterForms.lean ====
section
/-! DEFINITION. The register forms of format F2 (spec/43_arith_logic_compare.md section 2). Only the nibbles an instruction uses are
checked (D16; log entry 18). -/

namespace Sys2Proof.Machine

/-- ADDR r1, r2 (R134): `R[r2] <- add24(R[r2], R[r1])`. -/
def execAddr (r1 r2 : BitVec 4) (s : State) : Out :=
  runReg 2 (combineRegs (fun a v => .ok (add24 a v)) r1 r2) s

/-- SUBR r1, r2 (R135): `R[r2] <- sub24(R[r2], R[r1])`. -/
def execSubr (r1 r2 : BitVec 4) (s : State) : Out :=
  runReg 2 (combineRegs (fun a v => .ok (sub24 a v)) r1 r2) s

/-- MULR r1, r2 (R136): `R[r2] <- mul24(R[r2], R[r1])`. -/
def execMulr (r1 r2 : BitVec 4) (s : State) : Out :=
  runReg 2 (combineRegs (fun a v => .ok (mul24 a v)) r1 r2) s

/-- DIVR r1, r2 (R137): `R[r2] <- div24(R[r2], R[r1])`, or DivisionByZero. -/
def execDivr (r1 r2 : BitVec 4) (s : State) : Out :=
  runReg 2 (combineRegs div24 r1 r2) s

/-- COMPR r1, r2 (R138): `setCC(cmp24(R[r1], R[r2]))`. -/
def execCompr (r1 r2 : BitVec 4) (s : State) : Out :=
  runReg 2 (fun s => s.attempt (lookupReg r1) fun a => s.attempt (lookupReg r2) fun b =>
    .next (s.setCompare (s.regs.get a) (s.regs.get b)).retire) s

/-- TIXR r1 (R139): the id is checked, X is incremented, then X is compared with R[r1], read after the increment. -/
def execTixr (r1 _r2 : BitVec 4) (s : State) : Out :=
  runReg 2 (fun s => s.attempt (lookupReg r1) fun r =>
    let s' := s.setReg .X (add24 s.regs.X 1)
    .next (s'.setCompare s'.regs.X (s'.regs.get r)).retire) s

/-- CLEAR r1 (R140): `R[r1] <- 0`. -/
def execClear (r1 _r2 : BitVec 4) (s : State) : Out :=
  runReg 2 (fun s => s.attempt (lookupReg r1) fun r => .next (s.setReg r 0).retire) s

/-- RMO r1, r2 (R141): `v1 = R[r1]; check r2 defined; R[r2] <- v1`. -/
def execRmo (r1 r2 : BitVec 4) (s : State) : Out :=
  runReg 2 (combineRegs (fun _ v => .ok v) r1 r2) s

end Sys2Proof.Machine
end

