-- ==== Sys2Proof/Machine/Dispatch.lean ====
section
/-! DEFINITION. The dispatch from an instruction to its meaning (spec/42_interpreter_cycle.md R112), one arm for each
constructor. `exec i s` is the part of a Step after the fetch of `i`, with `s.regs.PC` still the address of `i`. -/

namespace Sys2Proof.Machine

/-- The meaning of an instruction (R112). -/
def exec (i : Instr) (s : State) : Host.Outcome State Fault Refusal :=
  match i with
  | .float => Sys2Proof.Machine.execFloat s
  | .fix => Sys2Proof.Machine.execFix s
  | .norm => Sys2Proof.Machine.execNorm s
  | .sio => Sys2Proof.Machine.execSio s
  | .hio => Sys2Proof.Machine.execHio s
  | .tio => Sys2Proof.Machine.execTio s
  | .addr r1 r2 => Sys2Proof.Machine.execAddr r1 r2 s
  | .subr r1 r2 => Sys2Proof.Machine.execSubr r1 r2 s
  | .mulr r1 r2 => Sys2Proof.Machine.execMulr r1 r2 s
  | .divr r1 r2 => Sys2Proof.Machine.execDivr r1 r2 s
  | .compr r1 r2 => Sys2Proof.Machine.execCompr r1 r2 s
  | .shiftl r1 r2 => Sys2Proof.Machine.execShiftl r1 r2 s
  | .shiftr r1 r2 => Sys2Proof.Machine.execShiftr r1 r2 s
  | .rmo r1 r2 => Sys2Proof.Machine.execRmo r1 r2 s
  | .svc r1 r2 => Sys2Proof.Machine.execSvc r1 r2 s
  | .clear r1 r2 => Sys2Proof.Machine.execClear r1 r2 s
  | .tixr r1 r2 => Sys2Proof.Machine.execTixr r1 r2 s
  | .ldaSic m => Sys2Proof.Machine.execLdaSic m s
  | .ldaF3 m => Sys2Proof.Machine.execLdaF3 m s
  | .ldaF4 m => Sys2Proof.Machine.execLdaF4 m s
  | .ldxSic m => Sys2Proof.Machine.execLdxSic m s
  | .ldxF3 m => Sys2Proof.Machine.execLdxF3 m s
  | .ldxF4 m => Sys2Proof.Machine.execLdxF4 m s
  | .ldlSic m => Sys2Proof.Machine.execLdlSic m s
  | .ldlF3 m => Sys2Proof.Machine.execLdlF3 m s
  | .ldlF4 m => Sys2Proof.Machine.execLdlF4 m s
  | .staSic m => Sys2Proof.Machine.execStaSic m s
  | .staF3 m => Sys2Proof.Machine.execStaF3 m s
  | .staF4 m => Sys2Proof.Machine.execStaF4 m s
  | .stxSic m => Sys2Proof.Machine.execStxSic m s
  | .stxF3 m => Sys2Proof.Machine.execStxF3 m s
  | .stxF4 m => Sys2Proof.Machine.execStxF4 m s
  | .stlSic m => Sys2Proof.Machine.execStlSic m s
  | .stlF3 m => Sys2Proof.Machine.execStlF3 m s
  | .stlF4 m => Sys2Proof.Machine.execStlF4 m s
  | .addSic m => Sys2Proof.Machine.execAddSic m s
  | .addF3 m => Sys2Proof.Machine.execAddF3 m s
  | .addF4 m => Sys2Proof.Machine.execAddF4 m s
  | .subSic m => Sys2Proof.Machine.execSubSic m s
  | .subF3 m => Sys2Proof.Machine.execSubF3 m s
  | .subF4 m => Sys2Proof.Machine.execSubF4 m s
  | .mulSic m => Sys2Proof.Machine.execMulSic m s
  | .mulF3 m => Sys2Proof.Machine.execMulF3 m s
  | .mulF4 m => Sys2Proof.Machine.execMulF4 m s
  | .divSic m => Sys2Proof.Machine.execDivSic m s
  | .divF3 m => Sys2Proof.Machine.execDivF3 m s
  | .divF4 m => Sys2Proof.Machine.execDivF4 m s
  | .compSic m => Sys2Proof.Machine.execCompSic m s
  | .compF3 m => Sys2Proof.Machine.execCompF3 m s
  | .compF4 m => Sys2Proof.Machine.execCompF4 m s
  | .tixSic m => Sys2Proof.Machine.execTixSic m s
  | .tixF3 m => Sys2Proof.Machine.execTixF3 m s
  | .tixF4 m => Sys2Proof.Machine.execTixF4 m s
  | .jeqSic m => Sys2Proof.Machine.execJeqSic m s
  | .jeqF3 m => Sys2Proof.Machine.execJeqF3 m s
  | .jeqF4 m => Sys2Proof.Machine.execJeqF4 m s
  | .jgtSic m => Sys2Proof.Machine.execJgtSic m s
  | .jgtF3 m => Sys2Proof.Machine.execJgtF3 m s
  | .jgtF4 m => Sys2Proof.Machine.execJgtF4 m s
  | .jltSic m => Sys2Proof.Machine.execJltSic m s
  | .jltF3 m => Sys2Proof.Machine.execJltF3 m s
  | .jltF4 m => Sys2Proof.Machine.execJltF4 m s
  | .jSic m => Sys2Proof.Machine.execJSic m s
  | .jF3 m => Sys2Proof.Machine.execJF3 m s
  | .jF4 m => Sys2Proof.Machine.execJF4 m s
  | .andSic m => Sys2Proof.Machine.execAndSic m s
  | .andF3 m => Sys2Proof.Machine.execAndF3 m s
  | .andF4 m => Sys2Proof.Machine.execAndF4 m s
  | .orSic m => Sys2Proof.Machine.execOrSic m s
  | .orF3 m => Sys2Proof.Machine.execOrF3 m s
  | .orF4 m => Sys2Proof.Machine.execOrF4 m s
  | .jsubSic m => Sys2Proof.Machine.execJsubSic m s
  | .jsubF3 m => Sys2Proof.Machine.execJsubF3 m s
  | .jsubF4 m => Sys2Proof.Machine.execJsubF4 m s
  | .rsubSic m => Sys2Proof.Machine.execRsubSic m s
  | .rsubF3 m => Sys2Proof.Machine.execRsubF3 m s
  | .rsubF4 m => Sys2Proof.Machine.execRsubF4 m s
  | .ldchSic m => Sys2Proof.Machine.execLdchSic m s
  | .ldchF3 m => Sys2Proof.Machine.execLdchF3 m s
  | .ldchF4 m => Sys2Proof.Machine.execLdchF4 m s
  | .stchSic m => Sys2Proof.Machine.execStchSic m s
  | .stchF3 m => Sys2Proof.Machine.execStchF3 m s
  | .stchF4 m => Sys2Proof.Machine.execStchF4 m s
  | .addfSic m => Sys2Proof.Machine.execAddfSic m s
  | .addfF3 m => Sys2Proof.Machine.execAddfF3 m s
  | .addfF4 m => Sys2Proof.Machine.execAddfF4 m s
  | .subfSic m => Sys2Proof.Machine.execSubfSic m s
  | .subfF3 m => Sys2Proof.Machine.execSubfF3 m s
  | .subfF4 m => Sys2Proof.Machine.execSubfF4 m s
  | .mulfSic m => Sys2Proof.Machine.execMulfSic m s
  | .mulfF3 m => Sys2Proof.Machine.execMulfF3 m s
  | .mulfF4 m => Sys2Proof.Machine.execMulfF4 m s
  | .divfSic m => Sys2Proof.Machine.execDivfSic m s
  | .divfF3 m => Sys2Proof.Machine.execDivfF3 m s
  | .divfF4 m => Sys2Proof.Machine.execDivfF4 m s
  | .ldbSic m => Sys2Proof.Machine.execLdbSic m s
  | .ldbF3 m => Sys2Proof.Machine.execLdbF3 m s
  | .ldbF4 m => Sys2Proof.Machine.execLdbF4 m s
  | .ldsSic m => Sys2Proof.Machine.execLdsSic m s
  | .ldsF3 m => Sys2Proof.Machine.execLdsF3 m s
  | .ldsF4 m => Sys2Proof.Machine.execLdsF4 m s
  | .ldfSic m => Sys2Proof.Machine.execLdfSic m s
  | .ldfF3 m => Sys2Proof.Machine.execLdfF3 m s
  | .ldfF4 m => Sys2Proof.Machine.execLdfF4 m s
  | .ldtSic m => Sys2Proof.Machine.execLdtSic m s
  | .ldtF3 m => Sys2Proof.Machine.execLdtF3 m s
  | .ldtF4 m => Sys2Proof.Machine.execLdtF4 m s
  | .stbSic m => Sys2Proof.Machine.execStbSic m s
  | .stbF3 m => Sys2Proof.Machine.execStbF3 m s
  | .stbF4 m => Sys2Proof.Machine.execStbF4 m s
  | .stsSic m => Sys2Proof.Machine.execStsSic m s
  | .stsF3 m => Sys2Proof.Machine.execStsF3 m s
  | .stsF4 m => Sys2Proof.Machine.execStsF4 m s
  | .stfSic m => Sys2Proof.Machine.execStfSic m s
  | .stfF3 m => Sys2Proof.Machine.execStfF3 m s
  | .stfF4 m => Sys2Proof.Machine.execStfF4 m s
  | .sttSic m => Sys2Proof.Machine.execSttSic m s
  | .sttF3 m => Sys2Proof.Machine.execSttF3 m s
  | .sttF4 m => Sys2Proof.Machine.execSttF4 m s
  | .compfSic m => Sys2Proof.Machine.execCompfSic m s
  | .compfF3 m => Sys2Proof.Machine.execCompfF3 m s
  | .compfF4 m => Sys2Proof.Machine.execCompfF4 m s
  | .lpsSic m => Sys2Proof.Machine.execLpsSic m s
  | .lpsF3 m => Sys2Proof.Machine.execLpsF3 m s
  | .lpsF4 m => Sys2Proof.Machine.execLpsF4 m s
  | .stiSic m => Sys2Proof.Machine.execStiSic m s
  | .stiF3 m => Sys2Proof.Machine.execStiF3 m s
  | .stiF4 m => Sys2Proof.Machine.execStiF4 m s
  | .rdSic m => Sys2Proof.Machine.execRdSic m s
  | .rdF3 m => Sys2Proof.Machine.execRdF3 m s
  | .rdF4 m => Sys2Proof.Machine.execRdF4 m s
  | .wdSic m => Sys2Proof.Machine.execWdSic m s
  | .wdF3 m => Sys2Proof.Machine.execWdF3 m s
  | .wdF4 m => Sys2Proof.Machine.execWdF4 m s
  | .tdSic m => Sys2Proof.Machine.execTdSic m s
  | .tdF3 m => Sys2Proof.Machine.execTdF3 m s
  | .tdF4 m => Sys2Proof.Machine.execTdF4 m s
  | .stswSic m => Sys2Proof.Machine.execStswSic m s
  | .stswF3 m => Sys2Proof.Machine.execStswF3 m s
  | .stswF4 m => Sys2Proof.Machine.execStswF4 m s
  | .sskSic m => Sys2Proof.Machine.execSskSic m s
  | .sskF3 m => Sys2Proof.Machine.execSskF3 m s
  | .sskF4 m => Sys2Proof.Machine.execSskF4 m s

end Sys2Proof.Machine
end

