-- ==== Sys2Proof/Machine/Fetch.lean ====
section
/-! DEFINITION. Fetch (spec/42_interpreter_cycle.md section 2): the program image, and on a miss the resync from memory. -/

namespace Sys2Proof.Machine

/-- The entry that memory holds at an address, decoded in full (R107, first half): Unknown/data for a byte that starts
no instruction, else the instruction, whose bytes must all exist. The second byte is looked at only where it decides
the format (log entry 13). -/
def liveDecode (m : Memory) (a0 : Nat) : Except StepError Entry :=
  match memReadByte m a0 with
  | .error e => .error e
  | .ok b0 =>
    if needsSecondByte b0 && !inRange (a0 + 1) 1 then .error (.addressError (a0 + 1) 1)
    else
      match classify b0 (m.get (a0 + 1)) with
      | none => .ok (.unknown b0)
      | some c =>
        if inRange a0 c.length then
          .ok (.ins (.ofShape (decodeOne b0 (m.get (a0 + 1)) (m.get (a0 + 2)) (m.get (a0 + 3)) c)))
        else .error (.addressError a0 c.length)

/-- The entries that memory holds from `start` through the last loaded byte (R107): nothing where there is none. -/
def tailEntries (m : Memory) (last : Option Nat) (start : Nat) : Except StepError Entries :=
  match last with
  | none => .ok []
  | some l =>
    if start ≤ l then
      match memReadBytes m start (l - start + 1) with
      | .ok buf => .ok (decodeStream buf start).1
      | .error e => .error e
    else .ok []

/-- `resync(a0)` (R107; log entry 19): the entry at `a0`, and the image with every entry from `a0` on replaced. If it
raises, the image is unchanged. -/
def resync (m : Memory) (img : Image) (a0 : Nat) : Except StepError (Entry × Image) :=
  match liveDecode m a0 with
  | .error e => .error e
  | .ok first =>
    match tailEntries m img.lastByteAddr (a0 + first.length) with
    | .error e => .error e
    | .ok more => .ok (first, { img with entries := img.entries.below a0 ++ (a0, first) :: more })

/-- What a fetch gives: an instruction, or an error before PC advances; with the state after the fetch. -/
inductive Fetched where
  | got (i : Instr) (s : State)
  | failed (e : StepError) (s : State)

/-- A fetched entry, noted in the trace: Unknown/data is never executed (R108). -/
def State.deliver (s : State) : Entry → Fetched
  | .ins i => .got i { s with trace := { s.trace with entry := some (.ins i) } }
  | .unknown b => .failed (.invalidOpcode b) { s with trace := { s.trace with entry := some (.unknown b) } }

/-- The state after a resync: the new image, and the resync noted in the trace (R107, R114). -/
def State.resynced (s : State) (img : Image) : State :=
  { s with image := img, trace := { s.trace with resynced := true } }

/-- `fetch(a0)` (R106 to R108), with `status <- Fetching` before it (R105). DESIGN CHOICE: a resync that raises leaves
the trace's resync flag false, since the image is then unchanged; R114 does not say (log entry 3). -/
def fetch (s : State) : Fetched :=
  match s.image.entries.lookup s.regs.PC.toNat with
  | some e => s.beginStep.deliver e
  | none =>
    match resync s.mem s.image s.regs.PC.toNat with
    | .ok (e, img) => (s.beginStep.resynced img).deliver e
    | .error err => .failed err s.beginStep

/-- The state with an instruction stored where the next fetch reads it: its bytes (and zero bytes up to the longest
instruction) in memory at PC, as far as memory goes, and no image entry at PC, so that the fetch decodes them
(log entry 10). -/
def placeInstruction (s : State) (bytes : List Byte) : State :=
  { s with
    mem := s.mem.setBytes s.regs.PC.toNat (bytes.take (Config.memSize - s.regs.PC.toNat))
    image := { s.image with entries := s.image.entries.erase s.regs.PC.toNat } }

end Sys2Proof.Machine
end

