-- ==== Sys2Proof/Machine/Step.lean ====
section
/-! DEFINITION. One Step of the interpreter (spec/42_interpreter_cycle.md R105): fetch, then the instruction. -/

namespace Sys2Proof.Machine

/-- `Step()` (R105). An error of the fetch is reported with PC unchanged (60_exceptions.md R240, R241). -/
def step (s : State) : Host.Outcome State Fault Refusal :=
  match fetch s with
  | .got i s' => exec i s'
  | .failed e s' => .next (s'.report e)

/-- The state with the instruction of a table word stored where `step` fetches its next instruction (log entry 10). -/
def State.withFetchWord (s : State) (nbits w : Nat) : State := placeInstruction s (tableBytesPadded nbits w)

end Sys2Proof.Machine
end

