-- ==== Sys2Proof/Machine/ObjectReader.lean ====
section
/-! DEFINITION. The object-record reader (spec/48_object_format.md Parts A and B): the H/T/M/E grammar, the reader's
state machine with the leftover buffer, and the state a load commits. Also the load of an assembled program (Part D). -/

namespace Sys2Proof.Machine

/-! ## Records (R220 to R225) -/

/-- A parsed record. -/
inductive Record where
  | header (name : Text) (start length : Word)
  | text (start : Nat) (payload : List Byte)
  | modification (addr : Nat) (halfBytes : Nat)
  | ending (entry : Word)
deriving DecidableEq, Repr

/-- The lines of a text: a line feed ends a line, and a carriage return before it is dropped; the last line needs no
terminator (R221). The second argument holds the characters of the line so far, last first. -/
def splitLines : Text → Text → List Text
  | [], acc => [acc.reverse]
  | c :: cs, acc =>
    if c = '\n' then (if acc.head? = some '\r' then acc.tail.reverse else acc.reverse) :: splitLines cs []
    else splitLines cs (c :: acc)

/-- Pairs of hexadecimal digits as bytes (R223). -/
def hexBytes? : Text → Option (List Byte)
  | [] => some []
  | [_] => none
  | c :: d :: rest =>
    match hexNumber? [c, d], hexBytes? rest with
    | some n, some bs => some (BitVec.ofNat 8 n :: bs)
    | _, _ => none

/-- A six-digit hexadecimal field at the head of a text (R220). -/
def hexField6? (t : Text) : Option Nat := if (t.take 6).length = 6 then hexNumber? (t.take 6) else none

/-- The fields of an H record after its letter (R222): 18 characters. -/
def parseHeader (t : Text) : Option Record :=
  if t.length = 18 then
    match hexField6? (t.drop 6), hexField6? (t.drop 12) with
    | some start, some len => some (.header (t.take 6) (BitVec.ofNat 24 start) (BitVec.ofNat 24 len))
    | _, _ => none
  else none

/-- The fields of a T record after its letter (R223): 8 + 2k characters for a byte count of k. -/
def parseText (t : Text) : Option Record :=
  match hexField6? t, hexNumber? ((t.drop 6).take 2), hexBytes? (t.drop 8) with
  | some start, some k, some payload => if t.length = 8 + 2 * k then some (.text start payload) else none
  | _, _, _ => none

/-- The fields of an M record after its letter (R224, R231): 8 characters, a length of 03 or 05. -/
def parseModification (t : Text) : Option Record :=
  if t.length = 8 then
    match hexField6? t, hexNumber? (t.drop 6) with
    | some addr, some k => if k = 3 ∨ k = 5 then some (.modification addr k) else none
    | _, _ => none
  else none

/-- The field of an E record after its letter (R225): 6 characters. -/
def parseEnding (t : Text) : Option Record :=
  if t.length = 6 then (hexField6? t).map fun e => .ending (BitVec.ofNat 24 e) else none

/-- The record of a line (R220, R221), or nothing for a malformed line; the record letter is upper case only. -/
def parseRecord : Text → Option Record
  | [] => none
  | c :: t =>
    if c = 'H' then parseHeader t
    else if c = 'T' then parseText t
    else if c = 'M' then parseModification t
    else if c = 'E' then parseEnding t
    else none

/-! ## The reader (R226 to R234) -/

/-- The reader's own state beside the machine being built: whether a load unit is open, whether a record was read,
and the address of the first E record (R226, R232). -/
structure Reader where
  core : State
  inUnit : Bool
  anyRecord : Bool
  entry : Option Word
deriving DecidableEq, Repr

/-- Reset as a command: every piece of the machine's state at its reset value; the device port, which is outside the
machine, goes on (10_state.md R36, R37; log entry 2). -/
def State.resetMachine (s : State) : State := { State.reset with dev := s.dev }

/-- The machine with a T record's bytes in memory and the entries decoded from them (R228): a leftover of the record
before is continued, and the unfinished tail is kept. -/
def loadText (s : State) (start : Nat) (payload : List Byte) : State :=
  let buf := s.loader.left ++ payload
  let a := if s.loader.left = [] then start else s.loader.leftAddr.getD start
  let out := decodeStream buf a
  { s with
    mem := s.mem.setBytes start payload
    image := { s.image with
      entries := s.image.entries.insertAll out.1
      lastByteAddr := if payload = [] then s.image.lastByteAddr else some (start + payload.length - 1) }
    loader := ⟨out.2, some (a + buf.length - out.2.length), some (start + payload.length)⟩ }

/-- One record (R227 to R232), or the error of its line. A record out of its place is malformed (log entry 21). -/
def readRecord (line : Nat) (rd : Reader) : Record → Except FormatError Reader
  | .header _ _ _ =>
    if rd.inUnit then .error (.malformedRecord line) else .ok { rd with inUnit := true, anyRecord := true }
  | .text start payload =>
    if !rd.inUnit then .error (.malformedRecord line)
    else if !inRange start payload.length then .error (.addressRange line)
    else if rd.core.loader.left ≠ [] ∧ rd.core.loader.expect ≠ some start then .error (.nonContiguous line)
    else .ok { rd with core := loadText rd.core start payload }
  | .modification _ _ => if rd.inUnit then .ok rd else .error (.malformedRecord line)
  | .ending e =>
    if rd.inUnit then
      .ok { core := { rd.core with loader := .none }, inUnit := false, anyRecord := true, entry := some (rd.entry.getD e) }
    else .error (.malformedRecord line)

/-- The records of the lines in file order, empty lines skipped; `line` is the number of the first (R221, R226). DESIGN
CHOICE: a skipped line counts in the line numbers, which begin at 1 (log entry 21). -/
def readLines : Nat → Reader → List Text → Except FormatError Reader
  | _, rd, [] => .ok rd
  | line, rd, t :: rest =>
    if t = [] then readLines (line + 1) rd rest
    else
      match parseRecord t with
      | none => .error (.malformedRecord line)
      | some r =>
        match readRecord line rd r with
        | .ok rd' => readLines (line + 1) rd' rest
        | .error e => .error e

/-- The state a load commits (R233): PC at the entry address, and nothing left of the loader. -/
def State.commitLoad (s : State) (entry : Word) : State :=
  { s with regs := { s.regs with PC := entry }, image := { s.image with entry := entry }, loader := .none }

/-- The machine the reader starts from: a fresh reset (R226). -/
def Reader.start (s : State) : Reader := ⟨s.resetMachine, false, false, none⟩

/-- The number of the line on which a text ends: one more than its line feeds, so the empty line behind a final line
feed counts. DESIGN CHOICE: MissingEnd and Empty, which R234 gives a line number but no line, carry this one (log entry
21). -/
def endLine (t : Text) : Nat := (splitLines t []).length

/-- `loadObject(text)` (R226, R232, R233): the new state, or the error; the caller keeps the old state on an error. -/
def loadObject (t : Text) (s : State) : Except FormatError State :=
  match readLines 1 (Reader.start s) (splitLines t []) with
  | .error e => .error e
  | .ok rd =>
    if !rd.anyRecord then .error (.empty (endLine t))
    else if rd.inUnit then .error (.missingEnd (endLine t))
    else .ok (rd.core.commitLoad (rd.entry.getD 0))

/-! ## Loading an assembled program (R239; log entry 24) -/

/-- A symbol table entry (10_state.md R34). -/
structure Symbol where
  label : Text
  address : Nat
  isReservedOrData : Bool
  dataLength : Nat
deriving DecidableEq, Repr

/-- What a source line contributes at its address: an instruction, with the flag `fromSymbol` of its operand, or the
bytes of a BYTE or WORD constant. Reserved storage contributes nothing. -/
inductive AsmItem where
  | code (i : Instr) (fromSymbol : Bool)
  | data (bytes : List Byte)
deriving DecidableEq, Repr

/-- An item with its address and the number of its source line (30_encoding.md R70). -/
structure AsmLine where
  addr : Nat
  line : Nat
  item : AsmItem
deriving DecidableEq, Repr

/-- A program as the assembler driver, which is out of scope (00_scope.md R5), hands it over: the program's name, the
lines in source order, the END operand's address, and the symbol table (10_state.md R34). -/
structure AsmProgram where
  name : Text
  lines : List AsmLine
  entry : Word
  symbols : List Symbol
deriving DecidableEq, Repr

/-- What the driver makes of the syntax nodes (R239): a program, or the error that aborts the load. -/
inductive Assembly where
  | program (p : AsmProgram)
  | failed (e : AssemblyError)
deriving DecidableEq, Repr

/-- The bytes an item puts into memory (R239). -/
def AsmItem.bytes : AsmItem → List Byte
  | .code i _ => encode i
  | .data bytes => bytes

/-- The Unknown/data entries of consecutive data bytes (R239). -/
def dataEntries (a : Nat) : List Byte → List (Nat × Entry)
  | [] => []
  | b :: bs => (a, .unknown b) :: dataEntries (a + 1) bs

/-- The image entries of an item: one for an instruction, one per byte for data (R239). -/
def AsmItem.entries (a : Nat) : AsmItem → List (Nat × Entry)
  | .code i _ => [(a, .ins i)]
  | .data bytes => dataEntries a bytes

/-- The higher of an address seen so far and the last byte of an item (R239: `lastByteAddr` is the highest address that
received a byte). -/
def highestByte (last : Option Nat) (a : Nat) (bytes : List Byte) : Option Nat :=
  if bytes = [] then last else some (max (last.getD 0) (a + bytes.length - 1))

/-- The lines put into memory and image in source order. DESIGN CHOICE (log entry 24): bytes outside memory are an
operand out of range on their line, and where two items cover one address, which R239 leaves open, the bytes and the
entry of the later line stand there; an entry of the earlier one at another address stays, as in R228. -/
def loadItems (s : State) : List AsmLine → Except AssemblyError State
  | [] => .ok s
  | l :: rest =>
    match memWriteBytes s.mem l.addr l.item.bytes with
    | .error _ => .error ⟨.operandRange, l.line⟩
    | .ok m =>
      loadItems
        { s with
          mem := m
          image := { s.image with
            entries := s.image.entries.insertAll (l.item.entries l.addr)
            lastByteAddr := highestByte s.image.lastByteAddr l.addr l.item.bytes } }
        rest

/-- The load of the program that the driver hands over (R239): the state of R233 with these bytes and entries, or the error with its
line number; the caller keeps the old state on an error. -/
def loadAssembled (p : AsmProgram) (s : State) : Except AssemblyError State :=
  match loadItems s.resetMachine p.lines with
  | .error e => .error e
  | .ok s' => .ok (s'.commitLoad p.entry)

end Sys2Proof.Machine
end

