-- ==== Sys2Proof/Machine/OperandEncoder.lean ====
section
/-! DEFINITION. The encode path of the address resolver (spec/41_address_resolver.md Part B) and the source line around it
(30_encoding.md R70, R72). The encoder reads no machine state (R95). -/

namespace Sys2Proof.Machine

/-! ## Symbols and literals -/

/-- The inputs of the operand encoder beside the token (R95): the symbol table, whether BASE mode is on, and the address
that will follow the instruction. -/
structure AsmContext where
  symbols : List Symbol
  baseEnabled : Bool
  pcNext : Int
deriving DecidableEq, Repr

/-- The value of a decimal digit. -/
def decDigitValue? (c : Char) : Option Nat := if 48 ≤ c.toNat ∧ c.toNat ≤ 57 then some (c.toNat - 48) else none

/-- The value of a binary digit. -/
def binDigitValue? (c : Char) : Option Nat := if c = '0' then some 0 else if c = '1' then some 1 else none

/-- An unsigned literal: decimal, `0x` hexadecimal or `0b` binary, with at least one digit (R97). -/
def unsignedLiteral? : Text → Option Nat
  | [] => none
  | '0' :: 'x' :: t => hexNumber? t
  | '0' :: 'b' :: t => if t = [] then none else digitsValue? binDigitValue? 2 0 t
  | t => digitsValue? decDigitValue? 10 0 t

/-- A literal with an optional leading minus sign (R97; log entry 22). -/
def literal? : Text → Option Int
  | '-' :: t => (unsignedLiteral? t).map fun n => -(n : Int)
  | t => (unsignedLiteral? t).map fun n => (n : Int)

/-- Step 3 (R97): the value of a token and the flag `fromSymbol`: the symbol table first, else a literal. DESIGN CHOICE:
where a label stands twice in the list that holds the table, which R34 gives as a map, its first entry counts (log
entry 22). -/
def resolveToken (symbols : List Symbol) (t : Text) : Except AssemblyErrorKind (Int × Bool) :=
  match symbols.find? fun e => e.label == t with
  | some e => .ok (e.address, true)
  | none =>
    match literal? t with
    | some v => .ok (v, false)
    | none => .error .unresolvedSymbol

/-! ## Modes and field (R96, R98 to R100) -/

/-- Step 1 (R96): the absolute mode by the leading `#` or `@`, and the token without it. -/
def stripSign : Text → AbsMode × Text
  | '#' :: t => (.immediate, t)
  | '@' :: t => (.indirect, t)
  | t => (.direct, t)

/-- Step 2 (R96): the indexed flag by a trailing `,X`, and the token without it. -/
def stripIndex (t : Text) : Bool × Text :=
  if t.reverse.take 2 = ['X', ','] then (true, (t.reverse.drop 2).reverse) else (false, t)

/-- A value lies in the signed 12-bit range [-2048, 2047] (R98). -/
def fits12 (v : Int) : Bool := decide (-2048 ≤ v) && decide (v ≤ 2047)

/-- Step 4 for format F3 (R98): the relative mode and the field, the first case that matches. -/
def chooseRel (abs : AbsMode) (value : Int) (baseEnabled : Bool) (pcNext : Int) : RelMode × Int :=
  if baseEnabled then (.baseRel, value)
  else if abs = .immediate ∧ fits12 value then (.direct, value)
  else if fits12 (value - pcNext) then (.pcRel, value - pcNext)
  else (.baseRel, value)

/-- What the operand encoder yields (R95). -/
structure EncodedOperand where
  abs : AbsMode
  rel : RelMode
  indexed : Bool
  field : Int
  fromSymbol : Bool
deriving DecidableEq, Repr

/-- The operand encoder (R95 to R100): `format4` is the `+` prefix. Format 4 is always Direct relative, and its value
must lie in [0, 0xFFFFF] (R100). -/
def encodeOperand (ctx : AsmContext) (format4 : Bool) (token : Text) : Except AssemblyErrorKind EncodedOperand :=
  match resolveToken ctx.symbols (stripIndex (stripSign token).2).2 with
  | .error e => .error e
  | .ok (value, fromSymbol) =>
    if format4 then
      if 0 ≤ value ∧ value ≤ 0xFFFFF then
        .ok ⟨(stripSign token).1, .direct, (stripIndex (stripSign token).2).1, value, fromSymbol⟩
      else .error .operandRange
    else
      .ok ⟨(stripSign token).1, (chooseRel (stripSign token).1 value ctx.baseEnabled ctx.pcNext).1,
        (stripIndex (stripSign token).2).1, (chooseRel (stripSign token).1 value ctx.baseEnabled ctx.pcNext).2, fromSymbol⟩

/-- The format-3 operand of encoded fields: the field modulo 2^12 (R99). -/
def EncodedOperand.toF3 (e : EncodedOperand) : F3Operand := ⟨e.abs, e.rel, e.indexed, BitVec.ofInt 12 e.field⟩

/-- The format-4 operand of encoded fields: the field modulo 2^20 (R99). -/
def EncodedOperand.toF4 (e : EncodedOperand) : F4Operand := ⟨e.abs, e.rel, e.indexed, BitVec.ofInt 20 e.field⟩

/-- The instruction of an F3/4 mnemonic with an operand token (R95; 30_encoding.md R72), and its `fromSymbol`. -/
def encodeOp34 (ctx : AsmContext) (op : Op34) (format4 : Bool) (token : Text) :
    Except AssemblyErrorKind (Instr × Bool) :=
  match encodeOperand ctx format4 token with
  | .error e => .error e
  | .ok e => .ok (if format4 then op.f4Instr e.toF4 else op.f3Instr e.toF3, e.fromSymbol)

/-- RSUB takes no operand: field 0, (n,i) = (1,1) (30_encoding.md R72). -/
def encodeRsub (format4 : Bool) : Instr :=
  if format4 then .rsubF4 ⟨.direct, .direct, false, 0⟩ else .rsubF3 ⟨.direct, .direct, false, 0⟩

/-! ## Source lines (30_encoding.md R70, R72; log entry 27) -/

/-- The syntax node of a source line (30_encoding.md R70). -/
structure SyntaxNode where
  label : Text
  mnemonic : Text
  operands : List Text
  lineNumber : Nat
  isComment : Bool
  comment : Text
deriving DecidableEq, Repr

/-- The id of a register by its name (30_encoding.md R72; 10_state.md R21). -/
def registerId? (t : Text) : Option (BitVec 4) :=
  if t = ['A'] then some 0
  else if t = ['X'] then some 1
  else if t = ['L'] then some 2
  else if t = ['B'] then some 3
  else if t = ['S'] then some 4
  else if t = ['T'] then some 5
  else if t = ['F'] then some 6
  else if t = ['P', 'C'] then some 8
  else if t = ['S', 'W'] then some 9
  else none

/-- A format-2 operation that takes two registers, or one register, or a register and a count, or a number
(30_encoding.md R72). -/
inductive Op2Operands where
  | twoRegisters | oneRegister | registerAndCount | number
deriving DecidableEq, Repr

/-- The operands a format-2 mnemonic takes (30_encoding.md R72). -/
def op2OperandForm : Op2 → Op2Operands
  | .addr => .twoRegisters
  | .subr => .twoRegisters
  | .mulr => .twoRegisters
  | .divr => .twoRegisters
  | .compr => .twoRegisters
  | .shiftl => .registerAndCount
  | .shiftr => .registerAndCount
  | .rmo => .twoRegisters
  | .svc => .number
  | .clear => .oneRegister
  | .tixr => .oneRegister

/-- The value of a literal in a range, else an operand out of range; no literal is an unresolved symbol (log entry 27). -/
def literalIn (low high : Int) (t : Text) : Except AssemblyErrorKind Int :=
  match literal? t with
  | some v => if low ≤ v ∧ v ≤ high then .ok v else .error .operandRange
  | none => .error .unresolvedSymbol

/-- The two nibbles of a format-2 instruction from its operands (30_encoding.md R72; log entry 27): a shift count n is
stored as n - 1 (47_unimplemented_noops.md R218), a call number in the high nibble (R214). DESIGN CHOICE: the
comma-separated operands of a line arrive as one string each in the node's `operands`, and one token with a comma in it
is no register name; the spec does not say how a pair arrives (log entry 27). DESIGN CHOICE: of two errors of one line
the first in the order number of operands, register name, count is reported, so an unknown register name wins over a
count outside 1 to 16 (log entry 27). -/
def op2Nibbles (op : Op2) (operands : List Text) : Except AssemblyErrorKind (BitVec 4 × BitVec 4) :=
  match op2OperandForm op, operands with
  | .twoRegisters, [a, b] =>
    match registerId? a, registerId? b with
    | some r1, some r2 => .ok (r1, r2)
    | _, _ => .error .unresolvedSymbol
  | .oneRegister, [a] =>
    match registerId? a with
    | some r1 => .ok (r1, 0)
    | none => .error .unresolvedSymbol
  | .registerAndCount, [a, n] =>
    match registerId? a, literalIn 1 16 n with
    | some r1, .ok v => .ok (r1, BitVec.ofInt 4 (v - 1))
    | none, _ => .error .unresolvedSymbol
    | _, .error e => .error e
  | .number, [n] =>
    match literalIn 0 15 n with
    | .ok v => .ok (BitVec.ofInt 4 v, 0)
    | .error e => .error e
  | _, _ => .error .unresolvedSymbol

/-- An operation by its mnemonic, in whichever table has it (30_encoding.md R72). -/
inductive Operation where
  | op1 (op : Op1)
  | op2 (op : Op2)
  | op34 (op : Op34)
deriving DecidableEq, Repr

/-- The operation of a mnemonic without its `+` (30_encoding.md R72). -/
def operation? (t : Text) : Option Operation :=
  match Op1.all.find? fun op => op.name == t with
  | some op => some (.op1 op)
  | none =>
    match Op2.all.find? fun op => op.name == t with
    | some op => some (.op2 op)
    | none => (Op34.all.find? fun op => op.name == t).map .op34

/-- The `+` that selects format 4, and the mnemonic without it (30_encoding.md R72). -/
def stripPlus : Text → Bool × Text
  | '+' :: t => (true, t)
  | t => (false, t)

/-- The instruction of a mnemonic with its operands (30_encoding.md R72): nothing when the mnemonic is none of the 59,
or when `+` stands before one that has no format 4; a directive is the driver's affair. RSUB and the format-1 mnemonics
take no operand, so a line that gives them one is refused (log entry 27). -/
def encodeMnemonic (ctx : AsmContext) (mnemonic : Text) (operands : List Text) :
    Except AssemblyErrorKind (Option (Instr × Bool)) :=
  match (stripPlus mnemonic).1, operation? (stripPlus mnemonic).2, operands with
  | _, none, _ => .ok none
  | true, some (.op1 _), _ => .ok none
  | true, some (.op2 _), _ => .ok none
  | false, some (.op1 op), [] => .ok (some (op.instr, false))
  | false, some (.op1 _), _ :: _ => .error .unresolvedSymbol
  | false, some (.op2 op), _ =>
    match op2Nibbles op operands with
    | .ok (r1, r2) => .ok (some (op.instr r1 r2, false))
    | .error e => .error e
  | plus, some (.op34 .rsub), [] => .ok (some (encodeRsub plus, false))
  | _, some (.op34 .rsub), _ :: _ => .error .unresolvedSymbol
  | plus, some (.op34 op), [token] =>
    match encodeOp34 ctx op plus token with
    | .ok r => .ok (some r)
    | .error e => .error e
  | _, some (.op34 _), _ => .error .unresolvedSymbol

/-- One source line in the second pass (30_encoding.md R70, R72): a comment gives nothing, a label with no mnemonic is an
error, an instruction line gives its instruction and `fromSymbol`. DESIGN CHOICE (log entry 27), two points R70 leaves
open: a comment node gives nothing and no error even when it has a label and no mnemonic; a line that is no comment and
has neither label nor mnemonic gives nothing and no error, whatever its operands. -/
def encodeLine (ctx : AsmContext) (node : SyntaxNode) : Except AssemblyError (Option (Instr × Bool)) :=
  if node.isComment then .ok none
  else if node.mnemonic = [] then
    if node.label = [] then .ok none else .error ⟨.labelWithoutMnemonic, node.lineNumber⟩
  else
    match encodeMnemonic ctx node.mnemonic node.operands with
    | .ok r => .ok r
    | .error k => .error ⟨k, node.lineNumber⟩

end Sys2Proof.Machine
end

