-- ==== Sys2Proof/Machine/ObjectWriter.lean ====
section
/-! DEFINITION. The object-record writer (spec/48_object_format.md Part C). It reads state only. -/

namespace Sys2Proof.Machine

/-- A program image as the command port passes it around: the image, the program's name, and the addresses of the
instructions whose operand value came from the symbol table (R235, R236); an object file gives no such addresses. -/
structure ProgramImage where
  image : Image
  name : Text
  fromSymbol : List Nat
deriving DecidableEq, Repr

/-- The image that a load of an object file returns (R233, R236). -/
def State.programImage (s : State) : ProgramImage := ⟨s.image, [], []⟩

/-- The flag `fromSymbol` of what a source line contributes; data has none (R236). -/
def AsmItem.fromSymbol : AsmItem → Bool
  | .code _ flag => flag
  | .data _ => false

/-- The addresses of flagged instructions after one more line: the flag goes with the entry, so a line that puts a new
entry at an address replaces the flag there (R236). -/
def flagLine (flagged : List Nat) (l : AsmLine) : List Nat :=
  (flagged.filter fun a => !((l.item.entries l.addr).any fun q => q.1 == a))
    ++ if l.item.fromSymbol then [l.addr] else []

/-- The addresses of the entries whose operand came from a symbol, once all lines are loaded (R236). -/
def AsmProgram.symbolAddresses (p : AsmProgram) : List Nat := p.lines.foldl flagLine []

/-- The image that the load of an assembled program returns (R239). -/
def AsmProgram.programImage (p : AsmProgram) (s : State) : ProgramImage := ⟨s.image, p.name, p.symbolAddresses⟩

/-- A program name as the six characters of an H record: padded on the right with spaces, or cut (R222, R235). -/
def nameField (name : Text) : Text := (name ++ List.replicate 6 ' ').take 6

/-- The hexadecimal digits of bytes, in order (R223). -/
def bytesHex : List Byte → Text
  | [] => []
  | b :: bs => hexDigits 2 b.toNat ++ bytesHex bs

/-- A T record (R223) with its line feed. -/
def textRecord (start : Nat) (payload : List Byte) : Text :=
  'T' :: hexDigits 6 start ++ hexDigits 2 payload.length ++ bytesHex payload ++ ['\n']

/-- The payloads of the T records (R237): entries in address order, a record closed where the next entry does not
follow on or does not fit whole. The first two arguments are the record being filled. -/
def textRuns (start : Nat) (payload : List Byte) : Entries → List (Nat × List Byte)
  | [] => [(start, payload)]
  | (a, e) :: rest =>
    if a = start + payload.length ∧ payload.length + e.bytes.length ≤ Config.maxTextPayload then
      textRuns start (payload ++ e.bytes) rest
    else (start, payload) :: textRuns a e.bytes rest

/-- The T records of the image's entries (R237). -/
def textRecords : Entries → Text
  | [] => []
  | (a, e) :: rest => (textRuns a e.bytes rest).flatMap fun p => textRecord p.1 p.2

/-- The half-byte length of the M record an entry gets (R236): instructions of format F3 or F4 whose relative mode is
Direct. -/
def modificationLength? : Entry → Option Nat
  | .unknown _ => none
  | .ins i =>
    match i.shape with
    | .f3 _ m => if m.rel = .direct then some 3 else none
    | .f4 _ m => if m.rel = .direct then some 5 else none
    | .f1 _ => none
    | .f2 _ _ _ => none
    | .sic _ _ => none

/-- The M records, for the entries whose operand value came from a symbol (R224, R236). DESIGN CHOICE: they stand in the
address order of their entries, since the spec orders M records after T records but not among themselves (log entry
23). -/
def modificationRecords (p : ProgramImage) : Text :=
  p.image.entries.flatMap fun q =>
    if p.fromSymbol.contains q.1 then
      match modificationLength? q.2 with
      | some k => 'M' :: hexDigits 6 (q.1 + 1) ++ hexDigits 2 k ++ ['\n']
      | none => []
    else []

/-- The lowest address with an entry (R235); 0 for an empty image (log entry 23). -/
def Entries.lowest (es : Entries) : Nat := (es.head?.map Prod.fst).getD 0

/-- One more than the highest byte address of an entry (R235); 0 for an empty image (log entry 23). -/
def Entries.afterHighest (es : Entries) : Nat := es.foldl (fun top q => max top (q.1 + q.2.length)) 0

/-- `emitObject(image)` (R235 to R237): one load unit, the H, T, M and E records in that order. -/
def emitObject (p : ProgramImage) : Text :=
  'H' :: nameField p.name ++ hexDigits 6 p.image.entries.lowest
    ++ hexDigits 6 (p.image.entries.afterHighest - p.image.entries.lowest) ++ ['\n']
    ++ textRecords p.image.entries
    ++ modificationRecords p
    ++ 'E' :: toHex p.image.entry ++ ['\n']

end Sys2Proof.Machine
end

