-- ==== Sys2Proof/Machine/Command.lean ====
section
/-! DEFINITION. Run and the command port (spec/42_interpreter_cycle.md R110, R111): the owner that handles one command at
a time, and lets every command but `stop()` wait while a Run is active. -/

namespace Sys2Proof.Machine

/-! ## Run (R111) -/

/-- The state after a Step; a stopped model (which never happens) would stay where it is. -/
def State.afterStep (s : State) : State :=
  match step s with
  | .next t => t
  | .fault _ => s
  | .refused _ => s

/-- The beginning of `run()`: `running <- true` (R111). -/
def State.startRun (s : State) : State := { s with control := { s.control with running := true } }

/-- The end of `run()`: `running <- false; stopRequested <- false` (R111). -/
def State.endRun (s : State) : State :=
  { s with control := { s.control with running := false, stopRequested := false } }

/-- `stop()`: `stopRequested <- true` (R110). -/
def State.requestStop (s : State) : State := { s with control := { s.control with stopRequested := true } }

/-- The Run ends after this Step: it carries an error, or the machine is Halted (R111). -/
def State.runEnds (s : State) : Bool := s.trace.error.isSome || s.control.status == .halted

/-- One turn of the loop of `run()` (R111): the stop request is looked at before the Step; without a Run nothing
happens. -/
def State.runTurn (s : State) : State :=
  if s.control.running then
    if s.control.stopRequested then s.endRun
    else if s.afterStep.runEnds then s.afterStep.endRun
    else s.afterStep
  else s

/-- `n` turns of the loop of `run()`; the Run itself has no limit (R111). -/
def State.runTurns (s : State) : Nat → State
  | 0 => s
  | n + 1 => State.runTurns s.runTurn n

/-! ## The command port (R110) -/

/-- The commands of the port; `emitListing` is out of scope (00_scope.md R5). -/
inductive Command where
  | reset
  | loadObject (text : Text)
  | loadAssembly (assembly : Assembly)
  | step
  | run
  | stop
  | emitObject (program : ProgramImage)
deriving DecidableEq, Repr

/-- What a command answers to its caller (R110): an error of a load leaves the state as it was. -/
inductive Reply where
  | done
  | waiting
  | started
  | trace (t : Trace)
  | loaded (program : ProgramImage)
  | formatError (e : FormatError)
  | assembled (program : ProgramImage) (symbols : List Symbol)
  | assemblyError (e : AssemblyError)
  | objectText (t : Text)
deriving DecidableEq, Repr

/-- One command on the machine while no Run is active (R110); `run` starts the loop, whose turns `Session.tick` takes. -/
def perform (c : Command) (s : State) : State × Reply :=
  match c with
  | .reset => (s.resetMachine, .done)
  | .loadObject t =>
    match loadObject t s with
    | .ok s' => (s', .loaded s'.programImage)
    | .error e => (s, .formatError e)
  | .loadAssembly (.failed e) => (s, .assemblyError e)
  | .loadAssembly (.program p) =>
    match loadAssembled p s with
    | .ok s' => (s', .assembled (p.programImage s') p.symbols)
    | .error e => (s, .assemblyError e)
  | .step => (s.afterStep, .trace s.afterStep.trace)
  | .run => (s.startRun, .started)
  | .stop => (s.requestStop, .done)
  | .emitObject p => (s, .objectText (emitObject p))

/-- The machine behind its command port, with the commands that wait for the Run to end, oldest first (log entry 25). -/
structure Session where
  core : State
  pending : List Command
deriving DecidableEq, Repr

/-- A command arrives (R110): while a Run is active only `stop()` acts and the others wait; a command also waits behind
those that wait already. -/
def Session.issue (q : Session) (c : Command) : Session × Reply :=
  match c with
  | .stop => ({ q with core := q.core.requestStop }, .done)
  | c =>
    if q.core.control.running || !q.pending.isEmpty then ({ q with pending := q.pending ++ [c] }, .waiting)
    else ({ q with core := (perform c q.core).1 }, (perform c q.core).2)

/-- The owner goes on by one: a turn of the Run, or the oldest waiting command (R110). DESIGN CHOICE: the end of a Run
answers no `Reply`; R111 has the error reported and gives `run()` no result, so the error stands in the trace of the
last Step, in `core.trace` (log entry 25). -/
def Session.tick (q : Session) : Session × Option Reply :=
  if q.core.control.running then ({ q with core := q.core.runTurn }, none)
  else
    match q.pending with
    | [] => (q, none)
    | c :: rest => (⟨(perform c q.core).1, rest⟩, some (perform c q.core).2)

end Sys2Proof.Machine
end

