-- ==== Sys2Proof/Safety.lean ====
section
/-! DEFINITION. The terms in which runs are judged: Steps that report no error (spec/93_implementation_defined.md U17), the
end of a program (42_interpreter_cycle.md R109), a coherent image (R115), and the invariant of the states between
Steps. -/

namespace Sys2Proof.Machine

/-- The Step from `s` reports no error (60_exceptions.md R240). -/
def StepsClean (s : State) : Prop := ∃ t, step s = .next t ∧ t.trace.error = none

/-- The first `n` Steps from a state report no error: the premise U17 asks of claims about a run. -/
def RunsClean : Nat → State → Prop
  | 0, _ => True
  | n + 1, s => ∃ t, step s = .next t ∧ t.trace.error = none ∧ RunsClean n t

/-- The program ends cleanly within `n` Steps: the last of at most `n` clean Steps halts (42_interpreter_cycle.md R109). -/
def EndsWithin : Nat → State → Prop
  | 0, _ => False
  | n + 1, s => ∃ t, step s = .next t ∧ t.trace.error = none ∧ (t.control.status = .halted ∨ EndsWithin n t)

/-- The image is coherent with memory (42_interpreter_cycle.md R115): every entry is what a resync would decode at its
address now. -/
def Coherent (s : State) : Prop :=
  ∀ a e, s.image.entries.lookup a = some e → liveDecode s.mem a = .ok e

/-- The byte at `a` belongs to no entry of the image: storing there keeps the image coherent (R115, 70 R266). -/
def OutsideCode (s : State) (a : Nat) : Prop :=
  ∀ k e, s.image.entries.lookup k = some e → a < k ∨ k + e.length ≤ a

/-- Every instruction of the image is syntactically valid, as decoding makes it (30_encoding.md R66, R69). -/
def Entries.valid (es : Entries) : Bool :=
  es.all fun p =>
    match p.2 with
    | .ins i => i.wellFormed
    | .unknown b => illegalFirstByte b

/-- The states between Steps, outside a load: memory and image in canonical form, no leftover of the loader
(10_state.md R33), the status Idle or Halted (R31), and the last loaded byte inside memory. -/
def Inv (s : State) : Prop :=
  s.mem.wf = true ∧ s.image.entries.wf = true ∧ s.loader = Loader.none
    ∧ (s.control.status = .idle ∨ s.control.status = .halted)
    ∧ ∀ l, s.image.lastByteAddr = some l → l < Config.memSize

/-- A halted machine stands on a J that jumps to itself (42_interpreter_cycle.md R109): its entry is in the image, and
its address resolves to PC with the registers as they are. -/
def HaltedAtSelfJump (s : State) : Prop :=
  s.control.status = .halted →
    ∃ i len m, ((∃ o, i = Instr.jSic o ∧ len = 3 ∧ m = o.mode) ∨ (∃ o, i = Instr.jF3 o ∧ len = 3 ∧ m = o.mode)
        ∨ (∃ o, i = Instr.jF4 o ∧ len = 4 ∧ m = o.mode))
      ∧ s.image.entries.lookup s.regs.PC.toNat = some (.ins i)
      ∧ resolveAddr m (s.regs.PC + BitVec.ofNat 24 len) s.regs.B s.regs.X = .ok s.regs.PC

end Sys2Proof.Machine
end

