-- ==== Sys2Proof/Certificates/Slice0/Obligations.lean ====
section
/-! DEFINITION. The statements for the provers (OBLIGATIONS.json lists them). The helpers below say in what form an
instruction completes or raises. -/

namespace Sys2Proof.Claims

open Sys2Proof.Machine

/-- The registers with PC advanced by an instruction's length and nothing else changed (10_state.md R25). -/
def advanced (s : State) (len : Nat) : Regs := { s.regs with PC := s.regs.PC + BitVec.ofNat 24 len }

/-- The instruction completes: `exec` answers the next state with these registers and this memory, the status Idle, the
resolved address and the notice in the trace, no error, and everything else as it was. -/
def Completes (i : Instr) (s : State) (regs : Regs) (mem : Memory) (addr : Option Word) (notice : Bool) : Prop :=
  exec i s = .next { s with
    regs := regs
    mem := mem
    control := { s.control with status := .idle }
    trace := { s.trace with addr := addr, unimplemented := notice, error := none, status := .idle } }

/-- The instruction raises an error: PC is advanced, the error is in the trace, and everything else is as it was
(60_exceptions.md R240, R243). -/
def Raises (i : Instr) (len : Nat) (s : State) (addr : Option Word) (e : StepError) : Prop :=
  exec i s = .next { s with
    regs := advanced s len
    control := { s.control with status := .idle }
    trace := { s.trace with addr := addr, unimplemented := false, error := some e, status := .idle } }

/-- The address resolves with the post-increment PC and the B and X of the state (41_address_resolver.md R92). -/
def Resolves (m : Mode) (len : Nat) (s : State) (addr : Word) : Prop :=
  resolveAddr m (s.regs.PC + BitVec.ofNat 24 len) s.regs.B s.regs.X = .ok addr

/-- The three forms of an F3/4 mnemonic. -/
structure Forms where
  sic : SicOperand → Instr
  f3 : F3Operand → Instr
  f4 : F4Operand → Instr

/-- A property of an instruction with its length and addressing fields, in all three formats. -/
def Forms.Each (f : Forms) (P : Instr → Nat → Mode → Prop) : Prop :=
  (∀ o, P (f.sic o) 3 o.mode) ∧ (∀ o, P (f.f3 o) 3 o.mode) ∧ ∀ o, P (f.f4 o) 4 o.mode

/-- The first byte is the opcode with the bits n and i (30_encoding.md R68). -/
def Forms.HasOpcode (f : Forms) (code : Byte) : Prop :=
  f.Each fun i _ m => (encode i).head? = some (code ||| m.abs.bits.setWidth 8)

/-- b = p = 1 is reported before anything else (41_address_resolver.md R91). -/
def Forms.InvalidBPErrors (f : Forms) : Prop :=
  f.Each fun i len m => ∀ s, m.rel = .invalid → Raises i len s none .invalidBP

/-- An error of the operand's reads is reported (41_address_resolver.md R93). -/
def Forms.OperandErrors (f : Forms) : Prop :=
  f.Each fun i len m => ∀ s addr e, Resolves m len s addr → operand s.mem m.abs addr = .error e →
    Raises i len s (some addr) e

/-- An error in forming the store target is reported (41_address_resolver.md R94). -/
def Forms.TargetErrors (f : Forms) : Prop :=
  f.Each fun i len m => ∀ s addr e, Resolves m len s addr → targetStore s.mem m.abs addr = .error e →
    Raises i len s (some addr) e

/-- The entries stand one behind the other from an address on (30_encoding.md R67). -/
def Consecutive : Nat → List (Nat × Entry) → Prop
  | _, [] => True
  | a, (k, e) :: rest => k = a ∧ Consecutive (a + e.length) rest

/-- The byte is the exact opcode of no F1 or F2 operation, and its upper six bits are the opcode of no F3/4 operation
(30_encoding.md R65). -/
def StartsNothing (b : Byte) : Prop :=
  (∀ op : Op1, b ≠ op.code) ∧ (∀ op : Op2, b ≠ op.code) ∧ ∀ op : Op34, b &&& 0xFC ≠ op.code

/-- A record at this address continues what the loader holds: nothing, or a leftover whose bytes end there (48_object_format.md
R228, R229). -/
def Continues (l : Loader) (start : Nat) : Prop :=
  l.left = [] ∨ (l.expect = some start ∧ ∃ a, l.leftAddr = some a ∧ a + l.left.length = start)

/-- No entry begins inside the one before it. -/
def Disjoint : Entries → Prop
  | [] => True
  | [_] => True
  | (a, e) :: (b, f) :: rest => a + e.length ≤ b ∧ Disjoint ((b, f) :: rest)

/-- One register holds the same in two register files; F with all its 48 bits. -/
def SameRegister (r : Reg) (a b : Regs) : Prop :=
  match r with
  | .A => a.A = b.A
  | .X => a.X = b.X
  | .L => a.L = b.L
  | .B => a.B = b.B
  | .S => a.S = b.S
  | .T => a.T = b.T
  | .F => a.F = b.F
  | .PC => a.PC = b.PC
  | .SW => a.SW = b.SW

/-- The registers that the rules let an F3/4 operation write, PC's advance aside (43, 44, 45, 46, 47). -/
def op34MayWrite : Op34 → List Reg
  | .lda => [.A] | .ldx => [.X] | .ldl => [.L] | .ldb => [.B] | .lds => [.S] | .ldt => [.T] | .ldch => [.A]
  | .sta => [] | .stx => [] | .stl => [] | .stb => [] | .sts => [] | .stt => [] | .stsw => [] | .stch => []
  | .add => [.A] | .sub => [.A] | .mul => [.A] | .div => [.A] | .and => [.A] | .or => [.A]
  | .comp => [.SW] | .tix => [.X, .SW]
  | .j => [.PC] | .jeq => [.PC] | .jgt => [.PC] | .jlt => [.PC] | .jsub => [.L, .PC] | .rsub => [.PC]
  | .rd => [.A] | .wd => [] | .td => [.SW]
  | .addf => [] | .subf => [] | .mulf => [] | .divf => [] | .compf => [] | .ldf => [] | .stf => []
  | .lps => [] | .sti => [] | .ssk => []

/-- The register of an id, as a list: none for an undefined id (10_state.md R21). -/
def idRegisters (id : BitVec 4) : List Reg := (Reg.ofId? id).toList

/-- The registers that the rules let an instruction write, PC's advance aside. -/
def mayWrite (i : Instr) : List Reg :=
  match i.shape with
  | .f1 _ => []
  | .f2 .addr _ r2 => idRegisters r2
  | .f2 .subr _ r2 => idRegisters r2
  | .f2 .mulr _ r2 => idRegisters r2
  | .f2 .divr _ r2 => idRegisters r2
  | .f2 .rmo _ r2 => idRegisters r2
  | .f2 .clear r1 _ => idRegisters r1
  | .f2 .compr _ _ => [.SW]
  | .f2 .tixr _ _ => [.X, .SW]
  | .f2 .shiftl _ _ => []
  | .f2 .shiftr _ _ => []
  | .f2 .svc _ _ => []
  | .sic op _ => op34MayWrite op
  | .f3 op _ => op34MayWrite op
  | .f4 op _ => op34MayWrite op

end Sys2Proof.Claims

/-- The instruction is a given F3/4 operation, in some format. -/
def Sys2Proof.Instr.IsOp34 (i : Sys2Proof.Instr) (op : Sys2Proof.Op34) : Prop :=
  (∃ m, i.shape = .sic op m) ∨ (∃ m, i.shape = .f3 op m) ∨ ∃ m, i.shape = .f4 op m

open Sys2Proof Sys2Proof.Machine Sys2Proof.Claims

/-- Every valid instruction, with every operand at every value its encoding admits, decodes from its own bytes,
whatever bytes follow; and the bytes of every instruction the decoder reads are its encoding, and it is valid. The
second part is the spec's own inference in R69 from R66 and R68. -/
def Obligations.DecodeEncodeRoundTrip : Prop :=
  (∀ i rest, i.wellFormed = true → decode (encode i ++ rest) = .ok (i, rest))
    ∧ ∀ bytes i rest, decode bytes = .ok (i, rest) → i.wellFormed = true ∧ encode i ++ rest = bytes

/-- Words written bit by bit from the formats of 30_encoding.md decode to their instructions: one of each format, and
b = p = 1; and the first byte 0x8C, which is in no opcode table, is refused as InvalidOpcode. The opcode bytes are
from general knowledge (D1, log entry 4), the indexed bit of the SIC word is the decision D5 of the spec (log entry
11), and that 0x8C is illegal whatever its low bits say is D4 (log entry 4). -/
def Obligations.SampleWordsDecode : Prop :=
  decode [0b11000100] = .ok (.fix, [])
    ∧ decode [0b10010000, 0b01000001] = .ok (.addr 4 1, [])
    ∧ decode [0b00000000, 0b10010000, 0b00000000] = .ok (.ldaSic ⟨true, 0x1000⟩, [])
    ∧ decode [0b00000001, 0b00001111, 0b11111111] = .ok (.ldaF3 ⟨.immediate, .direct, false, -1⟩, [])
    ∧ decode [0b01010111, 0b10100000, 0b00100011] = .ok (.stchF3 ⟨.direct, .pcRel, true, 0x23⟩, [])
    ∧ decode [0b01001011, 0b00010000, 0b00010000, 0b00110110] = .ok (.jsubF4 ⟨.direct, .direct, false, 0x01036⟩, [])
    ∧ decode [0b00000011, 0b01100000, 0b00000000] = .ok (.ldaF3 ⟨.direct, .invalid, false, 0⟩, [])
    ∧ decode [0b10001100, 0, 0] = .error (.invalidOpcode 0x8C)

/-- The bytes of the entries the stream decoder emits, followed by the leftover, are the buffer; every entry stands
where the one before it ends; every Unknown/data entry is a byte in no opcode table, and every instruction entry is a
valid instruction; the leftover is at most three bytes and is empty or an unfinished instruction. The opcode bytes are
from general knowledge (D1, log entry 4). That a byte in no table is illegal whatever its low bits say is D4 (log
entry 4). -/
def Obligations.StreamDecoderTilesTheBuffer : Prop :=
  ∀ buf a0,
    (decodeStream buf a0).1.flatMap (fun p => p.2.bytes) ++ (decodeStream buf a0).2 = buf
      ∧ Consecutive a0 (decodeStream buf a0).1
      ∧ (∀ p ∈ (decodeStream buf a0).1, match p.2 with
          | .unknown b => StartsNothing b
          | .ins i => i.wellFormed = true)
      ∧ (decodeStream buf a0).2.length ≤ 3
      ∧ ((decodeStream buf a0).2 = [] ∨ decode (decodeStream buf a0).2 = .error .incomplete)

/-- add24 and sub24 are sum and difference modulo 2^24; add24 commutes, and sub24 undoes it. The two laws are DOC's
testable properties. -/
def Obligations.AddSubtractModulo : Prop :=
  (∀ a b : Word, (add24 a b).toNat = (a.toNat + b.toNat) % 0x1000000)
    ∧ (∀ a b : Word, ((sub24 a b).toNat : Int) = ((a.toNat : Int) - b.toNat) % 0x1000000)
    ∧ (∀ a b : Word, add24 a b = add24 b a)
    ∧ ∀ a b : Word, sub24 (add24 a b) b = a

/-- mul24 masks the exact signed product to 24 bits, and the result is the unsigned product modulo 2^24 as well. The
unsigned reading is the inference R79 draws from its own first sentence. -/
def Obligations.MultiplyKeepsLowBits : Prop :=
  ∀ a b : Word,
    ((mul24 a b).toNat : Int) = (a.toInt * b.toInt) % 0x1000000
      ∧ (mul24 a b).toNat = (a.toNat * b.toNat) % 0x1000000

/-- div24 reports DivisionByZero exactly for a zero divisor; the quotient of -8388608 by -1 wraps to 0x800000; every
other quotient is the signed quotient rounded toward zero, and it masks the rounded quotient in every case. -/
def Obligations.DivideTruncatesTowardZero : Prop :=
  (∀ a : Word, div24 a 0 = .error .divisionByZero)
    ∧ div24 0x800000 0xFFFFFF = .ok 0x800000
    ∧ ∀ a b : Word, b ≠ 0 → ∃ q, div24 a b = .ok q
        ∧ (q.toNat : Int) = (a.toInt.tdiv b.toInt) % 0x1000000
        ∧ (¬ (a = 0x800000 ∧ b = 0xFFFFFF) → q.toInt = a.toInt.tdiv b.toInt)

/-- cmp24 is -1, 0 or 1 as the left operand is below, equal to or above the right one, both read as unsigned numbers;
a negative number compares greater than every non-negative one. The clauses on the condition code are the mapping R82
states, and hold whatever numbers the sentinels are; the last clause is the consequence R82 names. -/
def Obligations.CompareIsUnsigned : Prop :=
  (∀ a b : Word,
      (cmp24 a b = -1 ↔ a.toNat < b.toNat) ∧ (cmp24 a b = 0 ↔ a = b) ∧ (cmp24 a b = 1 ↔ b.toNat < a.toNat))
    ∧ (∀ a b : Word, ccOfWord (compareSentinel a b) = .lt ↔ cmp24 a b = -1)
    ∧ (∀ a b : Word, ccOfWord (compareSentinel a b) = .eq ↔ cmp24 a b = 0)
    ∧ (∀ a b : Word, ccOfWord (compareSentinel a b) = .gt ↔ cmp24 a b = 1)
    ∧ ∀ a b : Word, a.toInt < 0 → 0 ≤ b.toInt → cmp24 a b = 1

/-- fromHex(toHex(w)) is w for every word, and the rendering has six digits. Upper case and the absence of a prefix
are D26 (log entry 26), on which nothing here rests. -/
def Obligations.HexRenderingRoundTrip : Prop :=
  ∀ w : Word, fromHex (toHex w) = some w ∧ (toHex w).length = 6

/-- In a canonical memory, writing a word whose three bytes exist stores its bytes most significant first, a read
gives it back, the memory stays canonical, and every other byte is unchanged. The canonical form is the model's choice
(log entry 7). -/
def Obligations.WordWriteThenRead : Prop :=
  ∀ (m : Memory) (a : Nat) (v : Word), m.wf = true → a + 3 ≤ Config.memSize →
    ∃ m', memWriteWord m a v = .ok m' ∧ m'.wf = true ∧ memReadWord m' a = .ok v
      ∧ m'.get a = v.extractLsb' 16 8 ∧ m'.get (a + 1) = v.extractLsb' 8 8 ∧ m'.get (a + 2) = v.extractLsb' 0 8
      ∧ ∀ b, b < a ∨ a + 3 ≤ b → m'.get b = m.get b

/-- A read or write of 1, 3 or 6 bytes raises AddressError with its address and width exactly when its last byte lies
above 0xFFFFF, with no alignment condition; the name and the refusal of the whole access are the decision D7 of the
spec. That nothing needs to be aligned is D33 (log entry 30), and six-byte accesses, which no instruction performs,
are log entry 31. -/
def Obligations.AccessesOutsideMemoryRefusedWhole : Prop :=
  ∀ (m : Memory) (a : Nat) (b : Byte) (w : Word) (d : Wide),
    ((memReadByte m a = .error (.addressError a 1) ↔ a + 1 - 1 > 0xFFFFF) ∧ (a + 1 - 1 ≤ 0xFFFFF → memReadByte m a = .ok (m.get a)))
      ∧ ((memReadWord m a = .error (.addressError a 3) ↔ a + 3 - 1 > 0xFFFFF)
          ∧ (a + 3 - 1 ≤ 0xFFFFF → memReadWord m a = .ok (m.get a ++ m.get (a + 1) ++ m.get (a + 2))))
      ∧ ((memReadWide m a = .error (.addressError a 6) ↔ a + 6 - 1 > 0xFFFFF)
          ∧ (a + 6 - 1 ≤ 0xFFFFF → ∃ v, memReadWide m a = .ok v))
      ∧ ((memWriteByte m a b = .error (.addressError a 1) ↔ a + 1 - 1 > 0xFFFFF) ∧ (a + 1 - 1 ≤ 0xFFFFF → ∃ m', memWriteByte m a b = .ok m'))
      ∧ ((memWriteWord m a w = .error (.addressError a 3) ↔ a + 3 - 1 > 0xFFFFF) ∧ (a + 3 - 1 ≤ 0xFFFFF → ∃ m', memWriteWord m a w = .ok m'))
      ∧ ((memWriteWide m a d = .error (.addressError a 6) ↔ a + 6 - 1 > 0xFFFFF)
          ∧ (a + 6 - 1 ≤ 0xFFFFF → ∃ m', memWriteWide m a d = .ok m'))

/-- The ids 0 to 6, 8 and 9 name the registers and the others none; a by-id read of F gives its first three bytes, a
by-id write of F zero-fills the rest, and a write leaves every other register as it was. The ids (D2) and the read of
F (D15) are decisions of the spec. D2 is log entry 5, D15 log entry 17; that the first three bytes of F are its upper
24 bits is D28 (log entry 31). -/
def Obligations.RegistersById : Prop :=
  ((List.range 16).map fun n => Reg.ofId? (BitVec.ofNat 4 n))
      = [some .A, some .X, some .L, some .B, some .S, some .T, some .F, none, some .PC, some .SW, none, none, none, none, none, none]
    ∧ (∀ r : Regs, [r.get .A, r.get .X, r.get .L, r.get .B, r.get .S, r.get .T, r.get .F, r.get .PC, r.get .SW]
        = [r.A, r.X, r.L, r.B, r.S, r.T, r.F.extractLsb' 24 24, r.PC, r.SW])
    ∧ (∀ (r : Regs) (v : Word),
        r.set .A v = { r with A := v } ∧ r.set .X v = { r with X := v } ∧ r.set .L v = { r with L := v }
          ∧ r.set .B v = { r with B := v } ∧ r.set .S v = { r with S := v } ∧ r.set .T v = { r with T := v }
          ∧ r.set .PC v = { r with PC := v } ∧ r.set .SW v = { r with SW := v }
          ∧ r.set .F v = { r with F := v ++ (0 : Word) })
    ∧ ∀ (r : Regs) (n : Reg) (v : Word), (r.set n v).get n = v

/-- The address is the field masked to 24 bits, plus PC or B by the relative mode, plus X when indexed, modulo 2^24,
with no range check; b = p = 1 raises InvalidBP. The 24-bit wrap is the decision D6 of the spec. D6 is log entry 12.
-/
def Obligations.AddressResolution : Prop :=
  ∀ (m : Mode) (pc b x : Word),
    (m.rel = .invalid → resolveAddr m pc b x = .error .invalidBP)
      ∧ (m.rel ≠ .invalid → ∃ addr, resolveAddr m pc b x = .ok addr
          ∧ (addr.toNat : Int) = (m.field
              + (match m.rel with | .pcRel => (pc.toNat : Int) | .baseRel => (b.toNat : Int) | .direct => 0 | .invalid => 0)
              + (if m.indexed then (x.toNat : Int) else 0)) % 0x1000000)

/-- The word operand, the store target and the byte operand in each absolute mode, with one or two reads and the
errors of those reads. The store and byte forms are the decision D9 of the spec. D9 is log entry 14. -/
def Obligations.OperandsByAbsoluteMode : Prop :=
  ∀ (m : Memory) (a : Word),
    (operand m .sic a = memReadWord m a.toNat ∧ operand m .direct a = memReadWord m a.toNat ∧ operand m .immediate a = .ok a
        ∧ (∀ p, memReadWord m a.toNat = .ok p → operand m .indirect a = memReadWord m p.toNat)
        ∧ ∀ e, memReadWord m a.toNat = .error e → operand m .indirect a = .error e)
      ∧ (targetStore m .sic a = .ok a ∧ targetStore m .direct a = .ok a ∧ targetStore m .immediate a = .error .immediateTarget
          ∧ targetStore m .indirect a = memReadWord m a.toNat)
      ∧ (byteOperand m .sic a = memReadByte m a.toNat ∧ byteOperand m .direct a = memReadByte m a.toNat
          ∧ byteOperand m .immediate a = .ok (a.extractLsb' 0 8)
          ∧ (∀ p, memReadWord m a.toNat = .ok p → byteOperand m .indirect a = memReadByte m p.toNat)
          ∧ ∀ e, memReadWord m a.toNat = .error e → byteOperand m .indirect a = .error e)

/-- Every F3 and F4 instruction with b = p = 1, whatever its opcode, raises InvalidBP with PC advanced and nothing
else changed; no SIC instruction ever reports it; the stream decoder emits a valid F3 or F4 instruction with b = p = 1
without raising. That the address is resolved for every opcode, RSUB and the no-ops included, is the decision D14 of
the spec (log entry 16). -/
def Obligations.InvalidModeBitsRaiseInEveryOpcode : Prop :=
  (∀ (op : Op34) (o : F3Operand) (s : State), o.rel = .invalid → Raises (op.f3Instr o) 3 s none .invalidBP)
    ∧ (∀ (op : Op34) (o : F4Operand) (s : State), o.rel = .invalid → Raises (op.f4Instr o) 4 s none .invalidBP)
    ∧ (∀ (op : Op34) (o : SicOperand) (s t : State), exec (op.sicInstr o) s = .next t → t.trace.error ≠ some .invalidBP)
    ∧ (∀ (op : Op34) (o : F3Operand) (a0 : Nat), o.wellFormed = true → o.rel = .invalid →
        decodeStream (encode (op.f3Instr o)) a0 = ([(a0, .ins (op.f3Instr o))], []))
    ∧ ∀ (op : Op34) (o : F4Operand) (a0 : Nat), o.wellFormed = true → o.rel = .invalid →
        decodeStream (encode (op.f4Instr o)) a0 = ([(a0, .ins (op.f4Instr o))], [])

/-- In all three formats, when the address resolves and the operand is read, the instruction completes with its one
register equal to the operand and PC advanced, everything else unchanged, memory included; an error of the resolution
or of the read is reported with nothing but PC changed. The opcode bytes are from general knowledge (D1, log entry 4).
-/
def Obligations.WordLoadsTakeTheOperand : Prop :=
  ∀ p ∈ ([(⟨.ldaSic, .ldaF3, .ldaF4⟩, 0x00, fun r v => { r with A := v }),
      (⟨.ldxSic, .ldxF3, .ldxF4⟩, 0x04, fun r v => { r with X := v }),
      (⟨.ldlSic, .ldlF3, .ldlF4⟩, 0x08, fun r v => { r with L := v }),
      (⟨.ldbSic, .ldbF3, .ldbF4⟩, 0x68, fun r v => { r with B := v }),
      (⟨.ldsSic, .ldsF3, .ldsF4⟩, 0x6C, fun r v => { r with S := v }),
      (⟨.ldtSic, .ldtF3, .ldtF4⟩, 0x74, fun r v => { r with T := v })] : List (Forms × Byte × (Regs → Word → Regs))),
    p.1.HasOpcode p.2.1 ∧ p.1.InvalidBPErrors ∧ p.1.OperandErrors
      ∧ p.1.Each fun i len m => ∀ s addr v, Resolves m len s addr → operand s.mem m.abs addr = .ok v →
          Completes i s (p.2.2 (advanced s len) v) s.mem (some addr) false

/-- LDCH completes, when its byte operand is read, with the low byte of A replaced; errors change nothing but PC. That
the low byte of A is meant is the decision D31 of the spec, the Indirect and Immediate forms are D9. The opcode byte
is from general knowledge (D1, log entry 4); D31 and D9 are log entries 28 and 14. -/
def Obligations.ByteLoadKeepsUpperBits : Prop :=
  (⟨.ldchSic, .ldchF3, .ldchF4⟩ : Forms).HasOpcode 0x50 ∧ (⟨.ldchSic, .ldchF3, .ldchF4⟩ : Forms).InvalidBPErrors
    ∧ (⟨.ldchSic, .ldchF3, .ldchF4⟩ : Forms).Each fun i len m => ∀ s addr, Resolves m len s addr →
        (∀ b, byteOperand s.mem m.abs addr = .ok b →
          Completes i s { advanced s len with A := s.regs.A.extractLsb' 8 16 ++ b } s.mem (some addr) false)
        ∧ ∀ e, byteOperand s.mem m.abs addr = .error e → Raises i len s (some addr) e

/-- In all three formats a store writes the three bytes of its register at the target (the address itself, or the word
there for Indirect), leaves every other byte, every register but PC and the image as they were, and reports
ImmediateTarget, the error of the pointer read, or AddressError of the write with nothing but PC changed. The memory
is taken in canonical form, which every Step keeps (StepKeepsInvariant). The Indirect target and ImmediateTarget are
the decision D9 of the spec (log entry 14), the refusal of the whole access is D7. The opcode bytes are from general
knowledge (D1, log entry 4). -/
def Obligations.WordStoresWriteThreeBytes : Prop :=
  ∀ p ∈ ([(⟨.staSic, .staF3, .staF4⟩, 0x0C, fun r => r.A),
      (⟨.stxSic, .stxF3, .stxF4⟩, 0x10, fun r => r.X),
      (⟨.stlSic, .stlF3, .stlF4⟩, 0x14, fun r => r.L),
      (⟨.stbSic, .stbF3, .stbF4⟩, 0x78, fun r => r.B),
      (⟨.stsSic, .stsF3, .stsF4⟩, 0x7C, fun r => r.S),
      (⟨.sttSic, .sttF3, .sttF4⟩, 0x84, fun r => r.T)] : List (Forms × Byte × (Regs → Word))),
    p.1.HasOpcode p.2.1 ∧ p.1.InvalidBPErrors ∧ p.1.TargetErrors
      ∧ p.1.Each fun i len m => ∀ s addr t, Resolves m len s addr → targetStore s.mem m.abs addr = .ok t →
          (t.toNat + 3 > Config.memSize → Raises i len s (some addr) (.addressError t.toNat 3))
          ∧ (s.mem.wf = true → t.toNat + 3 ≤ Config.memSize → ∃ mem, Completes i s (advanced s len) mem (some addr) false
              ∧ mem.wf = true
              ∧ mem.get t.toNat = (p.2.2 s.regs).extractLsb' 16 8
              ∧ mem.get (t.toNat + 1) = (p.2.2 s.regs).extractLsb' 8 8
              ∧ mem.get (t.toNat + 2) = (p.2.2 s.regs).extractLsb' 0 8
              ∧ ∀ a, a < t.toNat ∨ t.toNat + 3 ≤ a → mem.get a = s.mem.get a)

/-- STSW stores the three bytes of SW as the other word stores do theirs. That STSW exists with this meaning is the
decision D12 of the spec. D12 is log entry 15; the Indirect target and ImmediateTarget are D9 (log entry 14). The
opcode byte is from general knowledge (D1, log entry 4). -/
def Obligations.StatusWordStore : Prop :=
  ∀ p ∈ ([(⟨.stswSic, .stswF3, .stswF4⟩, 0xE8, fun r => r.SW)] : List (Forms × Byte × (Regs → Word))),
    p.1.HasOpcode p.2.1 ∧ p.1.InvalidBPErrors ∧ p.1.TargetErrors
      ∧ p.1.Each fun i len m => ∀ s addr t, Resolves m len s addr → targetStore s.mem m.abs addr = .ok t →
          (t.toNat + 3 > Config.memSize → Raises i len s (some addr) (.addressError t.toNat 3))
          ∧ (s.mem.wf = true → t.toNat + 3 ≤ Config.memSize → ∃ mem, Completes i s (advanced s len) mem (some addr) false
              ∧ mem.wf = true
              ∧ mem.get t.toNat = (p.2.2 s.regs).extractLsb' 16 8
              ∧ mem.get (t.toNat + 1) = (p.2.2 s.regs).extractLsb' 8 8
              ∧ mem.get (t.toNat + 2) = (p.2.2 s.regs).extractLsb' 0 8
              ∧ ∀ a, a < t.toNat ∨ t.toNat + 3 ≤ a → mem.get a = s.mem.get a)

/-- STCH writes the low byte of A at its target, at any address up to 0xFFFFF, and leaves every other byte and every
register but PC as they were; a target above memory raises AddressError, and its other errors are those of the word
stores. That the low byte of A is meant is the decision D31 of the spec (PRESUMED, log entry 28), the target forms are
D9 (log entry 14), the refusal above memory is D7. The opcode byte is from general knowledge (D1, log entry 4). -/
def Obligations.ByteStoreWritesOneByte : Prop :=
  (⟨.stchSic, .stchF3, .stchF4⟩ : Forms).HasOpcode 0x54 ∧ (⟨.stchSic, .stchF3, .stchF4⟩ : Forms).InvalidBPErrors
    ∧ (⟨.stchSic, .stchF3, .stchF4⟩ : Forms).TargetErrors
    ∧ (⟨.stchSic, .stchF3, .stchF4⟩ : Forms).Each fun i len m => ∀ s addr t, Resolves m len s addr →
        targetStore s.mem m.abs addr = .ok t →
        (t.toNat > 0xFFFFF → Raises i len s (some addr) (.addressError t.toNat 1))
        ∧ (s.mem.wf = true → t.toNat ≤ 0xFFFFF → ∃ mem, Completes i s (advanced s len) mem (some addr) false
            ∧ mem.wf = true ∧ mem.get t.toNat = s.regs.A.extractLsb' 0 8 ∧ ∀ a, a ≠ t.toNat → mem.get a = s.mem.get a)

/-- In all three formats the instruction completes with A equal to A op operand, modulo 2^24 and with no flag,
everything else unchanged; errors change nothing but PC. Destination and operand order are the decision D11 of the
spec (log entry 28). The opcode bytes are from general knowledge (D1, log entry 4). -/
def Obligations.AccumulatorArithmetic : Prop :=
  ∀ p ∈ ([(⟨.addSic, .addF3, .addF4⟩, 0x18, fun a v => a + v),
      (⟨.subSic, .subF3, .subF4⟩, 0x1C, fun a v => a - v),
      (⟨.mulSic, .mulF3, .mulF4⟩, 0x20, fun a v => BitVec.ofInt 24 (a.toInt * v.toInt)),
      (⟨.andSic, .andF3, .andF4⟩, 0x40, fun a v => a &&& v),
      (⟨.orSic, .orF3, .orF4⟩, 0x44, fun a v => a ||| v)] : List (Forms × Byte × (Word → Word → Word))),
    p.1.HasOpcode p.2.1 ∧ p.1.InvalidBPErrors ∧ p.1.OperandErrors
      ∧ p.1.Each fun i len m => ∀ s addr v, Resolves m len s addr → operand s.mem m.abs addr = .ok v →
          Completes i s { advanced s len with A := p.2.2 s.regs.A v } s.mem (some addr) false

/-- DIV completes with the signed quotient truncated toward zero when the operand is not zero, and reports
DivisionByZero with nothing but PC changed when it is. The operand order is the decision D11 of the spec (log entry
28). The opcode byte is from general knowledge (D1, log entry 4). -/
def Obligations.DivideAndItsError : Prop :=
  (⟨.divSic, .divF3, .divF4⟩ : Forms).HasOpcode 0x24 ∧ (⟨.divSic, .divF3, .divF4⟩ : Forms).InvalidBPErrors ∧ (⟨.divSic, .divF3, .divF4⟩ : Forms).OperandErrors
    ∧ (⟨.divSic, .divF3, .divF4⟩ : Forms).Each fun i len m => ∀ s addr v, Resolves m len s addr → operand s.mem m.abs addr = .ok v →
        (v = 0 → Raises i len s (some addr) .divisionByZero)
        ∧ (v ≠ 0 → Completes i s { advanced s len with A := BitVec.ofInt 24 (s.regs.A.toInt.tdiv v.toInt) } s.mem (some addr) false)

/-- COMP overwrites SW with the sentinel for below, equal or above, comparing as unsigned numbers, and changes nothing
else. The sentinels are the decision D10 of the spec (log entry 6), the operand order D11. The opcode byte is from
general knowledge (D1, log entry 4). D11 is log entry 28. -/
def Obligations.CompareSetsStatusWord : Prop :=
  (⟨.compSic, .compF3, .compF4⟩ : Forms).HasOpcode 0x28 ∧ (⟨.compSic, .compF3, .compF4⟩ : Forms).InvalidBPErrors ∧ (⟨.compSic, .compF3, .compF4⟩ : Forms).OperandErrors
    ∧ (⟨.compSic, .compF3, .compF4⟩ : Forms).Each fun i len m => ∀ s addr v, Resolves m len s addr → operand s.mem m.abs addr = .ok v →
        Completes i s { advanced s len with SW := (if s.regs.A.toNat < v.toNat then 0x000000 else if s.regs.A = v then 0x400000 else 0x800000) } s.mem (some addr) false

/-- TIX resolves its address and reads its operand with the old X, then writes X + 1 and the sentinel of the new X
against the operand. The sentinels are the decision D10 of the spec (log entry 6). The opcode byte is from general
knowledge (D1, log entry 4). -/
def Obligations.TixIncrementsThenCompares : Prop :=
  (⟨.tixSic, .tixF3, .tixF4⟩ : Forms).HasOpcode 0x2C ∧ (⟨.tixSic, .tixF3, .tixF4⟩ : Forms).InvalidBPErrors ∧ (⟨.tixSic, .tixF3, .tixF4⟩ : Forms).OperandErrors
    ∧ (⟨.tixSic, .tixF3, .tixF4⟩ : Forms).Each fun i len m => ∀ s addr v, Resolves m len s addr → operand s.mem m.abs addr = .ok v →
        Completes i s { advanced s len with X := s.regs.X + 1, SW := (if (s.regs.X + 1).toNat < v.toNat then 0x000000 else if (s.regs.X + 1) = v then 0x400000 else 0x800000) }
          s.mem (some addr) false

/-- For all register ids, r1 = r2 and the ids of PC, SW and F included, the instruction completes with r2 op r1
written to r2 by id, nothing else changed; an undefined id is reported, r1 first, with nothing but PC changed. Ids and
operand order are decisions D2 and D11 of the spec (log entries 5 and 28). The opcode bytes are from general knowledge
(D1, log entry 4). That r1 is checked before r2 is D32 (log entry 32). -/
def Obligations.RegisterArithmetic : Prop :=
  ∀ p ∈ ([(Instr.addr, 0x90, fun a v => a + v),
      (Instr.subr, 0x94, fun a v => a - v),
      (Instr.mulr, 0x98, fun a v => BitVec.ofInt 24 (a.toInt * v.toInt))] :
        List ((BitVec 4 → BitVec 4 → Instr) × Byte × (Word → Word → Word))),
    ∀ r1 r2 s, encode (p.1 r1 r2) = [p.2.1, r1 ++ r2]
      ∧ (Reg.ofId? r1 = none → Raises (p.1 r1 r2) 2 s none (.invalidRegister r1))
      ∧ (Reg.ofId? r1 ≠ none → Reg.ofId? r2 = none → Raises (p.1 r1 r2) 2 s none (.invalidRegister r2))
      ∧ ∀ source dest, Reg.ofId? r1 = some source → Reg.ofId? r2 = some dest →
          Completes (p.1 r1 r2) s
            ((advanced s 2).set dest (p.2.2 ((advanced s 2).get dest) ((advanced s 2).get source))) s.mem none false

/-- DIVR completes with r2 divided by r1 in r2 when r1 does not hold zero, and reports DivisionByZero with nothing but
PC changed when it does; undefined ids are reported first. Ids and operand order are decisions D2 and D11 of the spec.
The opcode byte is from general knowledge (D1, log entry 4). D2 and D11 are log entries 5 and 28, the order of the
errors is D32 (log entry 32). -/
def Obligations.RegisterDivide : Prop :=
  ∀ r1 r2 s, encode (.divr r1 r2) = [0x9C, r1 ++ r2]
    ∧ (Reg.ofId? r1 = none → Raises (.divr r1 r2) 2 s none (.invalidRegister r1))
    ∧ (Reg.ofId? r1 ≠ none → Reg.ofId? r2 = none → Raises (.divr r1 r2) 2 s none (.invalidRegister r2))
    ∧ ∀ source dest, Reg.ofId? r1 = some source → Reg.ofId? r2 = some dest →
        ((advanced s 2).get source = 0 → Raises (.divr r1 r2) 2 s none .divisionByZero)
        ∧ ((advanced s 2).get source ≠ 0 →
            Completes (.divr r1 r2) s
              ((advanced s 2).set dest
                (BitVec.ofInt 24 (((advanced s 2).get dest).toInt.tdiv ((advanced s 2).get source).toInt))) s.mem none false)

/-- COMPR writes the sentinel of r1 against r2, CLEAR writes zero to r1 and ignores the other nibble, RMO copies r1 to
r2; undefined ids are reported with nothing but PC changed. Ids, operand order and the existence of CLEAR and RMO are
decisions D2, D11 and D12 of the spec. The numbers COMPR writes to SW are D10 (log entry 6), that the second nibble of
CLEAR is ignored is D16 (log entry 18). The opcode bytes are from general knowledge (D1, log entry 4). D2, D11 and D12
are log entries 5, 28 and 15. -/
def Obligations.RegisterCompareAndMove : Prop :=
  ∀ r1 r2 s,
    (encode (.compr r1 r2) = [0xA0, r1 ++ r2] ∧ encode (.clear r1 r2) = [0xB4, r1 ++ r2] ∧ encode (.rmo r1 r2) = [0xAC, r1 ++ r2])
    ∧ (Reg.ofId? r1 = none → Raises (.compr r1 r2) 2 s none (.invalidRegister r1)
        ∧ Raises (.clear r1 r2) 2 s none (.invalidRegister r1) ∧ Raises (.rmo r1 r2) 2 s none (.invalidRegister r1))
    ∧ (∀ a, Reg.ofId? r1 = some a → Completes (.clear r1 r2) s ((advanced s 2).set a 0) s.mem none false
        ∧ (Reg.ofId? r2 = none → Raises (.compr r1 r2) 2 s none (.invalidRegister r2)
            ∧ Raises (.rmo r1 r2) 2 s none (.invalidRegister r2))
        ∧ ∀ b, Reg.ofId? r2 = some b →
            Completes (.rmo r1 r2) s ((advanced s 2).set b ((advanced s 2).get a)) s.mem none false
            ∧ Completes (.compr r1 r2) s
                { advanced s 2 with SW := if ((advanced s 2).get a).toNat < ((advanced s 2).get b).toNat then 0x000000
                                         else if (advanced s 2).get a = (advanced s 2).get b then 0x400000 else 0x800000 }
                s.mem none false)

/-- TIXR writes X + 1 and the sentinel of the new X against the register read after the increment, so TIXR X gives EQ;
an undefined id is reported with X unchanged; the other nibble is ignored. Ids and sentinels are decisions D2 and D10
of the spec. The opcode byte is from general knowledge (D1, log entry 4). That the other nibble is ignored is D16 (log
entry 18). D2 and D10 are log entries 5 and 6. -/
def Obligations.TixrComparesAfterIncrement : Prop :=
  ∀ r1 r2 s, encode (.tixr r1 r2) = [0xB8, r1 ++ r2]
    ∧ (Reg.ofId? r1 = none → Raises (.tixr r1 r2) 2 s none (.invalidRegister r1))
    ∧ (r1 = 1 → Completes (.tixr r1 r2) s { advanced s 2 with X := s.regs.X + 1, SW := 0x400000 } s.mem none false)
    ∧ ∀ r, Reg.ofId? r1 = some r → r ≠ .X →
        Completes (.tixr r1 r2) s
          { advanced s 2 with
            X := s.regs.X + 1
            SW := if (s.regs.X + 1).toNat < ((advanced s 2).get r).toNat then 0x000000
                  else if s.regs.X + 1 = (advanced s 2).get r then 0x400000 else 0x800000 } s.mem none false

/-- J writes the resolved address to PC whatever its absolute mode, reads no memory, changes nothing else, and leaves
the status Halted when the address is the instruction address and Idle otherwise. That a jump fetches no operand in
any absolute mode rests on the jump family of D8 (log entry 16). The opcode byte is from general knowledge (D1, log
entry 4). -/
def Obligations.JumpAndHalt : Prop :=
  (⟨.jSic, .jF3, .jF4⟩ : Forms).HasOpcode 0x3C ∧ (⟨.jSic, .jF3, .jF4⟩ : Forms).InvalidBPErrors
    ∧ (⟨.jSic, .jF3, .jF4⟩ : Forms).Each fun i len m => ∀ s addr, Resolves m len s addr →
        exec i s = .next { s with
          regs := { s.regs with PC := addr }
          control := { s.control with status := if addr = s.regs.PC then .halted else .idle }
          trace := { s.trace with
            addr := some addr, unimplemented := false, error := none
            status := if addr = s.regs.PC then .halted else .idle } }

/-- Each conditional jump goes to the resolved address when SW[23:22] is its code (01, 10, 00) and to the next
instruction otherwise, changes nothing else, and ends Idle even at its own address. Reading the condition code from
SW[23:22] with these codes is the decision D10 of the spec (log entry 6), the jump family is D8 (log entry 16). The
opcode bytes are from general knowledge (D1, log entry 4). -/
def Obligations.ConditionalJumps : Prop :=
  ∀ p ∈ ([(⟨.jeqSic, .jeqF3, .jeqF4⟩, 0x30, (0b01 : BitVec 2)),
      (⟨.jgtSic, .jgtF3, .jgtF4⟩, 0x34, (0b10 : BitVec 2)),
      (⟨.jltSic, .jltF3, .jltF4⟩, 0x38, (0b00 : BitVec 2))] : List (Forms × Byte × BitVec 2)),
    p.1.HasOpcode p.2.1 ∧ p.1.InvalidBPErrors
      ∧ p.1.Each fun i len m => ∀ s addr, Resolves m len s addr →
          Completes i s (if s.regs.SW.extractLsb' 22 2 = p.2.2 then { s.regs with PC := addr } else advanced s len)
            s.mem (some addr) false

/-- JSUB writes the post-increment PC to L and the resolved address to PC; RSUB writes L to PC, whatever its mode bits
and field; nothing else changes and the status is Idle. That RSUB belongs to the jump family is the decision D8 of the
spec, and that it raises InvalidBP is D14 (log entry 16). The opcode bytes are from general knowledge (D1, log entry
4). -/
def Obligations.CallAndReturn : Prop :=
  (⟨.jsubSic, .jsubF3, .jsubF4⟩ : Forms).HasOpcode 0x48 ∧ (⟨.jsubSic, .jsubF3, .jsubF4⟩ : Forms).InvalidBPErrors
    ∧ (⟨.rsubSic, .rsubF3, .rsubF4⟩ : Forms).HasOpcode 0x4C ∧ (⟨.rsubSic, .rsubF3, .rsubF4⟩ : Forms).InvalidBPErrors
    ∧ ((⟨.jsubSic, .jsubF3, .jsubF4⟩ : Forms).Each fun i len m => ∀ s addr, Resolves m len s addr →
        Completes i s { s.regs with L := s.regs.PC + BitVec.ofNat 24 len, PC := addr } s.mem (some addr) false)
    ∧ (⟨.rsubSic, .rsubF3, .rsubF4⟩ : Forms).Each fun i len m => ∀ s addr, Resolves m len s addr →
        Completes i s { s.regs with PC := s.regs.L } s.mem (some addr) false

/-- RD calls the port once with the low byte of its operand, for every answer the collaborator can give: a byte
replaces the low byte of A, an Error is reported with A unchanged; the call is recorded in both cases. The byte lane
is the decision D31 of the spec; the answer is the scripted one or a free value (log entry 2). The opcode byte is from
general knowledge (D1, log entry 4). D31 is log entry 28. -/
def Obligations.DeviceReadTransfersOneByte : Prop :=
  (⟨.rdSic, .rdF3, .rdF4⟩ : Forms).HasOpcode 0xD8 ∧ (⟨.rdSic, .rdF3, .rdF4⟩ : Forms).InvalidBPErrors ∧ (⟨.rdSic, .rdF3, .rdF4⟩ : Forms).OperandErrors
    ∧ (⟨.rdSic, .rdF3, .rdF4⟩ : Forms).Each fun i len m => ∀ s addr v, Resolves m len s addr → operand s.mem m.abs addr = .ok v →
        (∀ b, s.dev.readAnswer (v.extractLsb' 0 8) = some b →
          exec i s = .next { s with
            regs := { advanced s len with A := s.regs.A.extractLsb' 8 16 ++ b }
            control := { s.control with status := .idle }
            trace := { s.trace with addr := some addr, unimplemented := false, error := none, status := .idle }
            dev := { s.dev with
              readScript := s.dev.readScript.tail
              events := s.dev.events ++ [.read (v.extractLsb' 0 8) (some b)] } })
        ∧ (s.dev.readAnswer (v.extractLsb' 0 8) = none →
          exec i s = .next { s with
            regs := advanced s len
            control := { s.control with status := .idle }
            trace := { s.trace with
              addr := some addr, unimplemented := false, error := some (.deviceError (v.extractLsb' 0 8)), status := .idle }
            dev := { s.dev with
              readScript := s.dev.readScript.tail
              events := s.dev.events ++ [.read (v.extractLsb' 0 8) none] } })

/-- WD calls the port once with the low byte of its operand and the low byte of A; it completes when the collaborator
answers success and reports DeviceError otherwise; the call is recorded in both cases. The byte lane is the decision
D31 of the spec; the answer is the scripted one or a free value (log entry 2). The opcode byte is from general
knowledge (D1, log entry 4). D31 is log entry 28. -/
def Obligations.DeviceWriteTransfersOneByte : Prop :=
  (⟨.wdSic, .wdF3, .wdF4⟩ : Forms).HasOpcode 0xDC ∧ (⟨.wdSic, .wdF3, .wdF4⟩ : Forms).InvalidBPErrors ∧ (⟨.wdSic, .wdF3, .wdF4⟩ : Forms).OperandErrors
    ∧ (⟨.wdSic, .wdF3, .wdF4⟩ : Forms).Each fun i len m => ∀ s addr v ok, Resolves m len s addr → operand s.mem m.abs addr = .ok v →
        s.dev.writeAnswer (v.extractLsb' 0 8) (s.regs.A.extractLsb' 0 8) = ok →
          exec i s = .next { s with
            regs := advanced s len
            control := { s.control with status := .idle }
            trace := { s.trace with
              addr := some addr, unimplemented := false, status := .idle
              error := if ok then none else some (.deviceError (v.extractLsb' 0 8)) }
            dev := { s.dev with
              writeScript := s.dev.writeScript.tail
              events := s.dev.events ++ [.write (v.extractLsb' 0 8) (s.regs.A.extractLsb' 0 8) ok] } }

/-- TD completes with SW = 0 when its operand is read, and the device port is not called; an error of the operand is
reported with SW unchanged. That the device is always ready is the decision D12 of the spec (log entry 15). That LT is
the number 0 in SW is D10 (log entry 6). The opcode byte is from general knowledge (D1, log entry 4). -/
def Obligations.DeviceTestIsAlwaysReady : Prop :=
  (⟨.tdSic, .tdF3, .tdF4⟩ : Forms).HasOpcode 0xE0 ∧ (⟨.tdSic, .tdF3, .tdF4⟩ : Forms).InvalidBPErrors ∧ (⟨.tdSic, .tdF3, .tdF4⟩ : Forms).OperandErrors
    ∧ (⟨.tdSic, .tdF3, .tdF4⟩ : Forms).Each fun i len m => ∀ s addr v, Resolves m len s addr → operand s.mem m.abs addr = .ok v →
        Completes i s { advanced s len with SW := 0 } s.mem (some addr) false

/-- In all three formats, when the address resolves, the instruction completes with nothing but PC changed and the
Unimplemented notice in the trace: no register, flag, memory byte or device; b = p = 1 is reported. Membership (D13),
the address check (D14) and the notice (D34) are decisions of the spec. The opcode bytes are from general knowledge
(D1, log entry 4). D13 is log entry 15, D14 log entry 16. -/
def Obligations.UnimplementedMemoryFormsDoNothing : Prop :=
  ∀ p ∈ ([(⟨.addfSic, .addfF3, .addfF4⟩, 0x58),
      (⟨.subfSic, .subfF3, .subfF4⟩, 0x5C),
      (⟨.mulfSic, .mulfF3, .mulfF4⟩, 0x60),
      (⟨.divfSic, .divfF3, .divfF4⟩, 0x64),
      (⟨.compfSic, .compfF3, .compfF4⟩, 0x88),
      (⟨.ldfSic, .ldfF3, .ldfF4⟩, 0x70),
      (⟨.stfSic, .stfF3, .stfF4⟩, 0x80),
      (⟨.lpsSic, .lpsF3, .lpsF4⟩, 0xD0),
      (⟨.sskSic, .sskF3, .sskF4⟩, 0xEC),
      (⟨.stiSic, .stiF3, .stiF4⟩, 0xD4)] : List (Forms × Byte)),
    p.1.HasOpcode p.2 ∧ p.1.InvalidBPErrors
      ∧ p.1.Each fun i len m => ∀ s addr, Resolves m len s addr →
          Completes i s (advanced s len) s.mem (some addr) true

/-- The format-1 and format-2 no-ops complete in every state and with every value of their nibbles, with nothing but
PC changed and the Unimplemented notice in the trace; no register id is checked. Membership of FIX, FLOAT and NORM
(D13, log entry 15), the unread nibbles (D16, log entry 18) and the notice (D34) are decisions of the spec. The opcode
bytes are from general knowledge (D1, log entry 4). -/
def Obligations.UnimplementedShortFormsDoNothing : Prop :=
  (∀ p ∈ ([(.fix, 0xC4), (.float, 0xC0), (.norm, 0xC8), (.sio, 0xF0), (.tio, 0xF8), (.hio, 0xF4)] : List (Instr × Byte)),
      encode p.1 = [p.2] ∧ ∀ s, Completes p.1 s (advanced s 1) s.mem none true)
    ∧ ∀ p ∈ ([(.svc, 0xB0), (.shiftl, 0xA4), (.shiftr, 0xA8)] : List ((BitVec 4 → BitVec 4 → Instr) × Byte)),
        ∀ r1 r2, encode (p.1 r1 r2) = [p.2, r1 ++ r2] ∧ ∀ s, Completes (p.1 r1 r2) s (advanced s 2) s.mem none true

/-- With an entry for a instruction at PC, the Step is exec of that instruction on the state with the fresh trace,
whatever memory holds. Without an entry, when the bytes at PC are the encoding of a valid instruction, the Step is
exec of it on the state whose image was resynced: entries from PC on replaced by the instruction and the entries
decoded through the last loaded byte. The details of the resync are the decision D21 of the spec (log entry 19). The
trace as a state field is the model's choice (log entry 3). -/
def Obligations.StepRunsTheDecodedInstruction : Prop :=
  (∀ (s : State) (i : Instr), s.image.entries.lookup s.regs.PC.toNat = some (.ins i) →
      step s = exec i { s with
        control := { s.control with status := .fetching }
        trace := { Trace.none with a0 := s.regs.PC, entry := some (.ins i) } })
    ∧ ∀ (s : State) (i : Instr) (more : Entries), s.image.entries.lookup s.regs.PC.toNat = none → i.wellFormed = true →
        s.regs.PC.toNat + i.length ≤ Config.memSize →
        s.mem.getBytes s.regs.PC.toNat i.length = encode i →
        tailEntries s.mem s.image.lastByteAddr (s.regs.PC.toNat + i.length) = .ok more →
        step s = exec i { s with
          image := { s.image with entries := s.image.entries.below s.regs.PC.toNat ++ (s.regs.PC.toNat, .ins i) :: more }
          control := { s.control with status := .fetching }
          trace := { Trace.none with a0 := s.regs.PC, entry := some (.ins i), resynced := true } }

/-- A Step whose fetch meets an Unknown/data entry reports InvalidOpcode with its byte, one whose PC lies above memory
without an entry reports AddressError; registers and memory are unchanged, and the next Step reports the same error in
the same registers, memory and image. That PC stays is the decision D19 of the spec. That the error stands in a trace
which is a field of the state is the model's form of a report (log entries 1 and 3), and the address and width that
the AddressError records are its choice (log entry 13). -/
def Obligations.FailedFetchLeavesPC : Prop :=
  (∀ (s : State) (b : Byte), s.image.entries.lookup s.regs.PC.toNat = some (.unknown b) →
      ∃ t, step s = .next t ∧ t.trace.error = some (.invalidOpcode b) ∧ t.regs = s.regs ∧ t.mem = s.mem ∧ t.image = s.image
        ∧ t.dev = s.dev ∧ t.control = { s.control with status := .idle })
    ∧ (∀ s : State, s.image.entries.lookup s.regs.PC.toNat = none → Config.memSize ≤ s.regs.PC.toNat →
      ∃ t, step s = .next t ∧ t.trace.error = some (.addressError s.regs.PC.toNat 1) ∧ t.regs = s.regs ∧ t.mem = s.mem
        ∧ t.image = s.image ∧ t.dev = s.dev ∧ t.control = { s.control with status := .idle })
    ∧ ∀ (s t u : State) (b : Byte), step s = .next t → t.trace.error = some (.invalidOpcode b) → step t = .next u →
        t.regs = s.regs ∧ t.mem = s.mem ∧ u.trace.error = some (.invalidOpcode b) ∧ u.regs = t.regs ∧ u.mem = t.mem
          ∧ u.image = t.image

/-- Every instruction, valid or not, in every state, and every Step from every state, answers a next state whose
status is Idle or Halted. That an error ends in a next state, and that the type of faults is empty, is log entry 1. -/
def Obligations.EveryStepHasASuccessor : Prop :=
  (∀ (i : Instr) (s : State), ∃ t, exec i s = .next t ∧ (t.control.status = .idle ∨ t.control.status = .halted))
    ∧ ∀ s : State, ∃ t, step s = .next t ∧ (t.control.status = .idle ∨ t.control.status = .halted)

/-- Whatever the instruction and the error, the state after a Step that reports an error differs from the one before
only in PC (unchanged, or advanced by the length of the fetched instruction), the status, which is Idle, the trace, an
image that a resync may have changed, and, for a DeviceError alone, the device port. The advanced PC is the decision
D17 of the spec. That an error ends in a next state is log entry 1, the device port as a state field is the model's
choice (log entry 2). The trace as a state field is log entry 3; that every check stands before every write is D32
(log entry 32). -/
def Obligations.FailedStepWritesOnlyPC : Prop :=
  ∀ (s t : State) (e : StepError), step s = .next t → t.trace.error = some e →
    t.mem = s.mem ∧ t.loader = s.loader ∧ t.control = { s.control with status := .idle }
      ∧ (t.regs = s.regs ∨ ∃ i, t.trace.entry = some (.ins i) ∧ t.regs = advanced s i.length)
      ∧ (t.image = s.image ∨ t.trace.resynced = true)
      ∧ (t.dev = s.dev ∨ ∃ d, e = .deviceError d)

/-- The status after a Step is Halted if and only if the fetched instruction is a J whose address resolved to the PC
the Step began with; no other instruction halts. The resolved address is read off the trace, which is the model's
state field (log entry 3). -/
def Obligations.HaltsOnlyAtSelfJump : Prop :=
  ∀ s t : State, step s = .next t →
    (t.control.status = .halted ↔
      t.trace.error = none ∧ t.trace.addr = some s.regs.PC
        ∧ ((∃ o, t.trace.entry = some (.ins (.jSic o))) ∨ (∃ o, t.trace.entry = some (.ins (.jF3 o)))
          ∨ ∃ o, t.trace.entry = some (.ins (.jF4 o))))

/-- Every Step leaves a machine that, if it is Halted, stands on a J to itself that is in the image; and a Step from
such a Halted machine is Halted again with registers, memory, image, control and device port unchanged. That a Halted
machine still executes is the decision D20 of the spec. D20 is log entry 20, the device port as a state field is the
model's choice (log entry 2). -/
def Obligations.HaltedStateIsFixed : Prop :=
  (∀ s t : State, step s = .next t → HaltedAtSelfJump t)
    ∧ ∀ s : State, HaltedAtSelfJump s → s.control.status = .halted →
        ∃ t, step s = .next t ∧ t.regs = s.regs ∧ t.mem = s.mem ∧ t.image = s.image ∧ t.control = s.control
          ∧ t.loader = s.loader ∧ t.dev = s.dev

/-- From every state with the invariant, every Step gives a state with it: memory and image in canonical form and
inside the address range, no loader leftover, status Idle or Halted, the last loaded byte inside memory. The canonical
form is the model's choice (log entry 7), and so is that the loader's own state stands in State (log entry 34). -/
def Obligations.StepKeepsInvariant : Prop :=
  ∀ s t : State, Inv s → step s = .next t → Inv t

/-- The state right after reset has the invariant that every Step keeps, a coherent image, and is not Halted. The
status Idle after reset is the decision D20 of the spec and lastByteAddr undefined is D21 (DEDUCED, log entry 8); the
canonical form is the model's choice (log entry 7), and so is that the loader's own state stands in State (log entry
34). -/
def Obligations.ResetHasInvariant : Prop :=
  Inv State.reset ∧ Coherent State.reset ∧ HaltedAtSelfJump State.reset

/-- From a state with the invariant and a coherent image, a Step is exec of the instruction that memory decodes to at
PC, on a state with the same registers, memory and device port; or it reports what the live decode reports. The resync
is D21 (log entry 19), what a live decode that fails reports is log entry 13, and the canonical form in the invariant
is log entry 7. -/
def Obligations.CoherentFetchIsLiveDecode : Prop :=
  ∀ s : State, Inv s → Coherent s →
    (∀ i, liveDecode s.mem s.regs.PC.toNat = .ok (.ins i) →
      ∃ s', step s = exec i s' ∧ s'.regs = s.regs ∧ s'.mem = s.mem ∧ s'.dev = s.dev ∧ s'.loader = s.loader ∧ Coherent s')
    ∧ (∀ b, liveDecode s.mem s.regs.PC.toNat = .ok (.unknown b) →
      ∃ t, step s = .next t ∧ t.trace.error = some (.invalidOpcode b) ∧ t.regs = s.regs)
    ∧ ∀ e, liveDecode s.mem s.regs.PC.toNat = .error e →
      ∃ t, step s = .next t ∧ t.trace.error = some e ∧ t.regs = s.regs

/-- From a state with the invariant and a coherent image: the fetch gives what the live decode gives, by hit or by
miss, a resync keeps the image coherent, and after a Step the image is coherent again if every byte of memory that the
Step changed lies outside the byte range of every entry. R115 is marked by the spec as an inference from R106, R107
and R52; the resync is D21 (log entry 19), and the canonical form in the invariant is the model's choice (log entry
7). -/
def Obligations.StepKeepsCoherence : Prop :=
  (∀ s : State, Coherent s → ∀ e, s.image.entries.lookup s.regs.PC.toNat = some e → liveDecode s.mem s.regs.PC.toNat = .ok e)
    ∧ (∀ (s : State) (e : Entry) (img : Image), Inv s → Coherent s → resync s.mem s.image s.regs.PC.toNat = .ok (e, img) →
        liveDecode s.mem s.regs.PC.toNat = .ok e ∧ Coherent { s with image := img })
    ∧ ∀ s t : State, Inv s → Coherent s → step s = .next t →
        (∀ a, t.mem.get a ≠ s.mem.get a → OutsideCode t a) → Coherent t

/-- Executing any instruction leaves the image as it was, so a store is not seen by a later fetch of a cached
instruction; it also leaves the loader state, running and stopRequested unchanged. That the loader's own state and the
trace stand in State is the model's choice (log entries 34 and 3). -/
def Obligations.StoresNeverChangeTheImage : Prop :=
  ∀ (i : Instr) (s t : State), exec i s = .next t →
    t.image = s.image ∧ t.loader = s.loader ∧ t.control.running = s.control.running
      ∧ t.control.stopRequested = s.control.stopRequested ∧ t.trace.entry = s.trace.entry ∧ t.trace.a0 = s.trace.a0

/-- Every instruction but the eight stores leaves the whole of memory as it was, in every state and format. That STSW
is one of the eight is D12 (log entry 15). -/
def Obligations.OnlyStoresChangeMemory : Prop :=
  ∀ (i : Instr) (s t : State), exec i s = .next t →
    (∀ op ∈ ([.sta, .stx, .stl, .stb, .sts, .stt, .stsw, .stch] : List Op34), ¬ i.IsOp34 op) → t.mem = s.mem

/-- For every instruction and state, a register outside the list the spec gives for the instruction is unchanged: F
only by a by-id write, SW only by the compares, TIX, TIXR, TD or a by-id write, L only by LDL, JSUB or a by-id write,
and so on; PC is advanced unless the instruction is a jump or writes PC by id. Ids are the decision D2 of the spec.
The lists are those of files 43 to 47: that ADDR, SUBR, MULR and DIVR write r2 and not r1 is D11 (PRESUMED, log entry
28), that CLEAR, RMO and TD exist and what they write, and that STSW writes no register, is D12 (PRESUMED, log entry
15), that LDF and STF write none is D13 (log entry 15); D2 is log entry 5. -/
def Obligations.RegistersWrittenOnlyByTheirInstructions : Prop :=
  ∀ (i : Instr) (s t : State), exec i s = .next t →
    (∀ r, r ≠ .PC → r ∉ mayWrite i → SameRegister r t.regs s.regs)
      ∧ (Reg.PC ∉ mayWrite i → t.regs.PC = s.regs.PC + BitVec.ofNat 24 i.length)

/-- An instruction that is neither RD nor WD leaves the device port as it was; RD appends at most one read event and
WD at most one write event, and exactly one when the Step completes or reports DeviceError, that is when the address
and the operand were obtained. The recorded events are the model's (D27, log entry 2). -/
def Obligations.OnlyRdAndWdCallDevices : Prop :=
  ∀ (i : Instr) (s t : State), exec i s = .next t →
    (¬ i.IsOp34 .rd → ¬ i.IsOp34 .wd → t.dev = s.dev)
      ∧ (i.IsOp34 .rd → t.dev = s.dev ∨ ∃ d a, t.dev.events = s.dev.events ++ [.read d a])
      ∧ (i.IsOp34 .wd → t.dev = s.dev ∨ ∃ d b a, t.dev.events = s.dev.events ++ [.write d b a])
      ∧ ((i.IsOp34 .rd ∨ i.IsOp34 .wd) → (t.trace.error = none ∨ ∃ d, t.trace.error = some (.deviceError d)) →
          t.dev.events.length = s.dev.events.length + 1)

/-- For an instruction that is neither RD nor WD, replacing the device port by any other replaces it in the result and
changes nothing else. The device port as a state field is the model's choice (log entry 2). -/
def Obligations.DevicesDoNotLeakIntoOtherInstructions : Prop :=
  ∀ (i : Instr) (s t : State) (d : DevicePort), ¬ i.IsOp34 .rd → ¬ i.IsOp34 .wd → exec i s = .next t →
    exec i { s with dev := d } = .next { t with dev := d }

/-- After reset all nine registers are zero, every byte of memory reads 0x00, the image is empty, entry is 0,
lastByteAddr is undefined, the status is Idle, no Run is active and the loader holds nothing; the reset command gives
the same from any state, the device port aside, and CC reads LT. The values of entry, lastByteAddr, status and the run
controls are decisions D18, D20, D21 and D22 of the spec (log entry 8). That the reset command keeps the device port
is the model's choice (log entry 2), and so are the trace as a state field and the blank trace it comes back to (log
entry 3). -/
def Obligations.ResetValues : Prop :=
  State.reset.regs = ⟨0, 0, 0, 0, 0, 0, 0, 0, 0⟩
    ∧ (∀ a, State.reset.mem.get a = 0x00)
    ∧ (∀ a, State.reset.image.entries.lookup a = none)
    ∧ State.reset.image.entry = 0 ∧ State.reset.image.lastByteAddr = none
    ∧ State.reset.control = ⟨.idle, false, false⟩
    ∧ State.reset.loader = ⟨[], none, none⟩
    ∧ State.reset.cc = .lt
    ∧ ∀ s : State, (perform .reset s).1 = { State.reset with dev := s.dev }

/-- When the load command of an object file or of an assembly reports an error, the state is exactly what it was
before; when it succeeds, the new state does not depend on the old one, the device port aside. Atomicity is that of
R226 and R239; that the driver hands over a program or its error is the model's form of the load (log entry 24), and
that the device port goes on through a load is log entry 2; the trace is blank after a load (log entry 3). -/
def Obligations.FailedLoadChangesNothing : Prop :=
  (∀ (t : Text) (s : State) (e : FormatError), (perform (.loadObject t) s).2 = .formatError e → (perform (.loadObject t) s).1 = s)
    ∧ (∀ (t : Text) (s : State) (p : ProgramImage), (perform (.loadObject t) s).2 = .loaded p →
        loadObject t s = .ok (perform (.loadObject t) s).1)
    ∧ (∀ (t : Text) (s u : State), loadObject t s = .ok u → loadObject t State.reset = .ok { u with dev := State.reset.dev })
    ∧ (∀ (a : Assembly) (s : State) (e : AssemblyError), (perform (.loadAssembly a) s).2 = .assemblyError e →
        (perform (.loadAssembly a) s).1 = s)
    ∧ (∀ (e : AssemblyError) (s : State), perform (.loadAssembly (.failed e)) s = (s, .assemblyError e))
    ∧ (∀ (a : Assembly) (s : State) (i : ProgramImage) (symbols : List Symbol),
        (perform (.loadAssembly a) s).2 = .assembled i symbols →
        ∃ p, a = .program p ∧ loadAssembled p s = .ok (perform (.loadAssembly a) s).1)
    ∧ ∀ (p : AsmProgram) (s u : State), loadAssembled p s = .ok u →
        loadAssembled p State.reset = .ok { u with dev := State.reset.dev }

/-- For every text that loads, the registers are zero but for PC, which is the entry address, the machine is Idle with
no Run, memory and image are canonical and inside the address range, and the loader holds nothing; the same for an
assembled program. PC at the entry is the decision D22 of the spec. The canonical form is log entry 7. That the device
port goes on through a load is the model's choice (log entry 2), and so is the form in which the driver hands an
assembled program over (log entry 24). -/
def Obligations.LoadedStateIsWellFormed : Prop :=
  (∀ (t : Text) (s u : State), loadObject t s = .ok u →
      u.regs = { Regs.zero with PC := u.image.entry } ∧ u.control = ⟨.idle, false, false⟩ ∧ u.dev = s.dev ∧ Inv u)
    ∧ ∀ (p : AsmProgram) (s u : State), loadAssembled p s = .ok u →
      u.regs = { Regs.zero with PC := p.entry } ∧ u.image.entry = p.entry ∧ u.control = ⟨.idle, false, false⟩
        ∧ u.dev = s.dev ∧ Inv u

/-- With leftover bytes, a T record inside memory that starts anywhere but at the expected address is refused; with
none, or at the expected address, it is accepted. That the range is checked first is R228; the reader's record of
whether a load unit is open is the model's form (log entry 21). -/
def Obligations.NonContiguousRecordIsRefused : Prop :=
  ∀ (line : Nat) (rd : Reader) (start : Nat) (payload : List Byte), rd.inUnit = true → start + payload.length ≤ Config.memSize →
    (rd.core.loader.left ≠ [] → rd.core.loader.expect ≠ some start →
        readRecord line rd (.text start payload) = .error (.nonContiguous line))
      ∧ (rd.core.loader.left = [] ∨ rd.core.loader.expect = some start →
        readRecord line rd (.text start payload) = .ok { rd with core := loadText rd.core start payload })

/-- Loading a payload in two records, the second starting where the first ends, leaves exactly the state that one
record with the whole payload leaves, also when the cut is inside an instruction, when a payload is empty, and when a
leftover is pending that ends where the first record starts. Every record leaves such a loader for the record that
continues it, and so does the start of a load, so a leftover survives any number of short records. That lastByteAddr
is taken from the last record is D22 (log entry 21), and that the loader's own state stands in State is log entry 34.
-/
def Obligations.SplitRecordsLoadAsOne : Prop :=
  (∀ (s : State) (start : Nat) (p q : List Byte), Continues s.loader start →
      loadText (loadText s start p) (start + p.length) q = loadText s start (p ++ q))
    ∧ (∀ (s : State) (start : Nat) (p : List Byte), Continues s.loader start →
        Continues (loadText s start p).loader (start + p.length))
    ∧ ∀ (s : State) (start : Nat), Continues (Reader.start s).core.loader start

/-- For an image inside memory whose entries do not overlap and are what decoding makes (valid instructions, and
Unknown bytes that start no instruction, so no assembler data byte that would decode), under a name without line
feeds, the text the writer emits loads and yields the same entries and the same entry address, with PC at that address
and the bytes of every entry in memory. The writer's fields and the cut into records are the decision D35 of the spec
(log entry 23); that the M records have no effect and that PC is set to the entry are D22, and the lexical rules are
D23 (log entry 21); the canonical form of the entries is the model's choice (log entry 7). -/
def Obligations.WrittenObjectReadsBack : Prop :=
  ∀ (p : ProgramImage) (s : State), p.image.entries.wf = true → p.image.entries.valid = true → Disjoint p.image.entries →
    (∀ q ∈ p.image.entries, q.1 + q.2.length ≤ Config.memSize) → '\n' ∉ p.name →
    ∃ u, loadObject (emitObject p) s = .ok u ∧ u.image.entries = p.image.entries ∧ u.image.entry = p.image.entry
      ∧ u.regs.PC = p.image.entry ∧ ∀ q ∈ p.image.entries, u.mem.getBytes q.1 q.2.length = q.2.bytes

/-- With BASE mode off, for an F3 operand that is no small immediate and whose displacement from the next PC lies in
[-2048, 2047], the encoder chooses PC-relative mode, and resolving with the same PC and no index gives the operand
address modulo 2^24. The small-immediate case that is left aside is D36 (log entry 22), the sum modulo 2^24 is D6 (log
entry 12). -/
def Obligations.PcRelativeOperandRoundTrip : Prop :=
  ∀ (ctx : AsmContext) (token : Text) (e : EncodedOperand) (value : Int) (sym : Bool) (pc b x : Word),
    ctx.baseEnabled = false → ctx.pcNext = pc.toNat → encodeOperand ctx false token = .ok e →
    resolveToken ctx.symbols (stripIndex (stripSign token).2).2 = .ok (value, sym) →
    ¬ (e.abs = .immediate ∧ -2048 ≤ value ∧ value ≤ 2047) → -2048 ≤ value - pc.toNat → value - pc.toNat ≤ 2047 →
    e.rel = .pcRel ∧ resolveAddr { e.toF3.mode with indexed := false } pc b x = .ok (BitVec.ofInt 24 value)

/-- BASE mode first, then small immediates, then PC-relative, then Base-relative with the raw value; a format-4
operand is Direct relative with its value, or out of range. The fields of the Base-relative cases and the format-4
choice are decisions D24 and D25 of the spec (log entry 22). That the small-immediate case applies to symbols too is
D36 (log entry 22). -/
def Obligations.EncoderModePriority : Prop :=
  (∀ abs v pc, chooseRel abs v true pc = (.baseRel, v))
    ∧ (∀ abs v pc, abs = .immediate → -2048 ≤ v → v ≤ 2047 → chooseRel abs v false pc = (.direct, v))
    ∧ (∀ abs v pc, ¬ (abs = .immediate ∧ -2048 ≤ v ∧ v ≤ 2047) → -2048 ≤ v - pc → v - pc ≤ 2047 →
        chooseRel abs v false pc = (.pcRel, v - pc))
    ∧ (∀ abs v pc, ¬ (abs = .immediate ∧ -2048 ≤ v ∧ v ≤ 2047) → ¬ (-2048 ≤ v - pc ∧ v - pc ≤ 2047) →
        chooseRel abs v false pc = (.baseRel, v))
    ∧ ∀ (ctx : AsmContext) (token : Text) (v : Int) (sym : Bool),
        resolveToken ctx.symbols (stripIndex (stripSign token).2).2 = .ok (v, sym) →
        (0 ≤ v → v ≤ 0xFFFFF → ∃ e, encodeOperand ctx true token = .ok e ∧ e.rel = .direct ∧ e.field = v
            ∧ e.toF4.mode.field = v ∧ e.fromSymbol = sym)
        ∧ (¬ (0 ≤ v ∧ v ≤ 0xFFFFF) → encodeOperand ctx true token = .error .operandRange)

/-- A turn of an active Run with a stop request ends the Run without a Step; otherwise it takes one Step, and the Run
ends exactly when that Step reported an error or halted; at its end running and stopRequested are false, and else they
are as before. That a Run ends on a reported error, and that the two control bits are cleared at its end, is the
decision D18 of the spec. D18 is log entry 25; the error is read off the trace in the state (log entry 3). -/
def Obligations.RunEndsForThreeReasons : Prop :=
  ∀ s : State, s.control.running = true →
    (s.control.stopRequested = true →
      s.runTurn = { s with control := { s.control with running := false, stopRequested := false } })
    ∧ (s.control.stopRequested = false → ∃ t, step s = .next t
        ∧ (t.trace.error ≠ none ∨ t.control.status = .halted →
            s.runTurn = { t with control := { t.control with running := false, stopRequested := false } })
        ∧ (t.trace.error = none → t.control.status ≠ .halted → s.runTurn = t ∧ s.runTurn.control.running = true))

/-- While a Run is active, a command other than stop leaves the machine as it is and is put behind the waiting ones;
stop sets the stop request at once; when no Run is active and nothing waits, a command is performed at once. That
commands wait is the decision D18 of the spec (log entry 25). The order in which they wait is the model's choice (log
entry 25). -/
def Obligations.CommandsWaitDuringRun : Prop :=
  (∀ (q : Session) (c : Command), q.core.control.running = true → c ≠ .stop →
      q.issue c = (⟨q.core, q.pending ++ [c]⟩, .waiting))
    ∧ (∀ q : Session, (q.issue .stop).1.core = { q.core with control := { q.core.control with stopRequested := true } }
        ∧ (q.issue .stop).1.pending = q.pending)
    ∧ ∀ (q : Session) (c : Command), q.core.control.running = false → q.pending = [] → c ≠ .stop →
        q.issue c = (⟨(perform c q.core).1, []⟩, (perform c q.core).2)
end

