-- ==== Sys2Proof/Laws/Codec.lean ====
section
/-! SUPPORT. The laws of the instruction codec (spec/30_encoding.md): the tables and the bits of each field are read as
they were written, and what one turn of the stream decoder does. -/

namespace Sys2Proof

/-! ## An instruction and its operation with fields -/

@[simp] theorem Op1.shape_instr (op : Op1) : op.instr.shape = .f1 op := by cases op <;> rfl

@[simp] theorem Op2.shape_instr (op : Op2) (r1 r2 : BitVec 4) : (op.instr r1 r2).shape = .f2 op r1 r2 := by
  cases op <;> rfl

@[simp] theorem Op34.shape_sicInstr (op : Op34) (m : SicOperand) : (op.sicInstr m).shape = .sic op m := by
  cases op <;> rfl

@[simp] theorem Op34.shape_f3Instr (op : Op34) (m : F3Operand) : (op.f3Instr m).shape = .f3 op m := by
  cases op <;> rfl

@[simp] theorem Op34.shape_f4Instr (op : Op34) (m : F4Operand) : (op.f4Instr m).shape = .f4 op m := by
  cases op <;> rfl

@[simp] theorem Instr.shape_ofShape (sh : Shape) : (Instr.ofShape sh).shape = sh := by
  cases sh <;> simp [Instr.ofShape]

/-- What well-formedness says of the fields (30_encoding.md R69). -/
def Shape.wellFormed : Shape → Bool
  | .f1 _ => true
  | .f2 _ _ _ => true
  | .sic _ _ => true
  | .f3 _ m => m.wellFormed
  | .f4 _ m => m.wellFormed

theorem Instr.wellFormed_eq_shape (i : Instr) : i.wellFormed = i.shape.wellFormed := by cases i <;> rfl

/-! ## The opcode tables (R62 to R64) -/

theorem Op1.ofByte?_code (op : Op1) : Op1.ofByte? op.code = some op := by cases op <;> decide

theorem Op1.ofByte?_code2 (op : Op2) : Op1.ofByte? op.code = none := by cases op <;> decide

theorem Op2.ofByte?_code (op : Op2) : Op2.ofByte? op.code = some op := by cases op <;> decide

theorem Op1.ofByte?_opcodeByte (op : Op34) (abs : AbsMode) : Op1.ofByte? (opcodeByte op abs) = none := by
  cases op <;> cases abs <;> decide

theorem Op2.ofByte?_opcodeByte (op : Op34) (abs : AbsMode) : Op2.ofByte? (opcodeByte op abs) = none := by
  cases op <;> cases abs <;> decide

theorem Op34.ofByte?_opcodeByte (op : Op34) (abs : AbsMode) : Op34.ofByte? (opcodeByte op abs) = some op := by
  cases op <;> cases abs <;> decide

theorem opcodeByte_ni (op : Op34) (abs : AbsMode) : (opcodeByte op abs).extractLsb' 0 2 = abs.bits := by
  cases op <;> cases abs <;> decide

theorem opcodeByte_sic (op : Op34) : opcodeByte op .sic = op.code := by cases op <;> decide

theorem Op1.code_of_ofByte? {b : Byte} {op : Op1} (h : Op1.ofByte? b = some op) : op.code = b := by
  simpa using List.find?_some h

theorem Op2.code_of_ofByte? {b : Byte} {op : Op2} (h : Op2.ofByte? b = some op) : op.code = b := by
  simpa using List.find?_some h

theorem Op34.code_of_ofByte? {b : Byte} {op : Op34} (h : Op34.ofByte? b = some op) : op.code = b &&& 0xFC := by
  simpa using List.find?_some h

/-! ## The fields (R66, R68) -/

@[simp] theorem AbsMode.ofBits_bits (m : AbsMode) : AbsMode.ofBits m.bits = m := by cases m <;> decide

@[simp] theorem RelMode.ofBits_bits (m : RelMode) : RelMode.ofBits m.bits = m := by cases m <;> decide

theorem AbsMode.bits_ofBits (b : BitVec 2) : (AbsMode.ofBits b).bits = b := by revert b; decide

theorem RelMode.bits_ofBits (b : BitVec 2) : (RelMode.ofBits b).bits = b := by revert b; decide

theorem AbsMode.ofBits_ne_sic {b : BitVec 2} (h : b ≠ 0) : AbsMode.ofBits b ≠ .sic := by revert b; decide

theorem AbsMode.bits_eq_zero {m : AbsMode} : m.bits = 0 ↔ m = .sic := by cases m <;> decide

/-- The high bits of a byte with its two low bits put back are the byte. -/
theorem byte_of_opcode_ni (b : Byte) : (b &&& 0xFC) ||| (b.extractLsb' 0 2).setWidth 8 = b := by revert b; decide

theorem modeByte_rel (x e : Bool) (rel : RelMode) (h : BitVec 4) : (modeByte x rel e h).extractLsb' 5 2 = rel.bits := by
  cases x <;> cases e <;> cases rel <;> revert h <;> decide

theorem modeByte_x (x e : Bool) (rel : RelMode) (h : BitVec 4) : (modeByte x rel e h).getLsbD 7 = x := by
  cases x <;> cases e <;> cases rel <;> revert h <;> decide

theorem modeByte_e (x e : Bool) (rel : RelMode) (h : BitVec 4) : (modeByte x rel e h).getLsbD 4 = e := by
  cases x <;> cases e <;> cases rel <;> revert h <;> decide

theorem modeByte_high (x e : Bool) (rel : RelMode) (h : BitVec 4) : (modeByte x rel e h).extractLsb' 0 4 = h := by
  cases x <;> cases e <;> cases rel <;> revert h <;> decide

/-- A mode byte is put together again from its fields. -/
theorem modeByte_of_byte (b : Byte) :
    modeByte (b.getLsbD 7) (.ofBits (b.extractLsb' 5 2)) (b.getLsbD 4) (b.extractLsb' 0 4) = b := by
  revert b; decide

theorem sicByte_x (x : Bool) (h : BitVec 7) : (BitVec.ofBool x ++ h).getLsbD 7 = x := by
  cases x <;> revert h <;> decide

theorem sicByte_low (x : Bool) (h : BitVec 7) : (BitVec.ofBool x ++ h).extractLsb' 0 7 = h := by
  cases x <;> revert h <;> decide

theorem sicByte_of_byte (b : Byte) : BitVec.ofBool (b.getLsbD 7) ++ b.extractLsb' 0 7 = b := by revert b; decide

theorem nibbles_high (a b : BitVec 4) : (a ++ b).extractLsb' 4 4 = a := by revert a b; decide

theorem nibbles_low (a b : BitVec 4) : (a ++ b).extractLsb' 0 4 = b := by revert a b; decide

theorem nibbles_of_byte (b : Byte) : b.extractLsb' 4 4 ++ b.extractLsb' 0 4 = b := by revert b; decide

/-- The lower part of two joined bit vectors. -/
theorem extract_low {n k : Nat} (h : BitVec n) (b : BitVec k) : (h ++ b).extractLsb' 0 k = b := by
  apply BitVec.eq_of_getLsbD_eq
  intro i hi
  simp [BitVec.getLsbD_append, hi]

/-- The upper part of two joined bit vectors. -/
theorem extract_high {n k : Nat} (h : BitVec n) (b : BitVec k) : (h ++ b).extractLsb' k n = h := by
  apply BitVec.eq_of_getLsbD_eq
  intro i hi
  simp [BitVec.getLsbD_append, hi]

/-- A bit vector is its upper part joined to its lower part. -/
theorem join_extract {n k : Nat} (v : BitVec (n + k)) : v.extractLsb' k n ++ v.extractLsb' 0 k = v := by
  apply BitVec.eq_of_getLsbD_eq
  intro i hi
  rw [BitVec.getLsbD_append]
  by_cases h : i < k
  · simp [h]
  · have e : k + (i - k) = i := by omega
    have : i - k < n := by omega
    simp [h, this, e]

/-! ## Classes and lengths (R55, R61) -/

/-- The class of the instruction with these fields. -/
def Shape.cls : Shape → Class
  | .f1 op => .f1 op
  | .f2 op _ _ => .f2 op
  | .sic op _ => .sic op
  | .f3 op _ => .f3 op
  | .f4 op _ => .f4 op

@[simp] theorem Class.length_cls (sh : Shape) : sh.cls.length = sh.format.length := by cases sh <;> rfl

@[simp] theorem Shape.cls_decodeOne (b0 b1 b2 b3 : Byte) (c : Class) : (decodeOne b0 b1 b2 b3 c).cls = c := by
  cases c <;> rfl

@[simp] theorem Shape.bytes_length (sh : Shape) : sh.bytes.length = sh.format.length := by cases sh <;> rfl

@[simp] theorem encode_length (i : Instr) : (encode i).length = i.length := by simp [encode, Instr.length]

theorem Instr.length_pos (i : Instr) : 0 < i.length := by
  unfold Instr.length; cases i.shape <;> simp [Shape.format, Format.length]

theorem Instr.length_le (i : Instr) : i.length ≤ 4 := by
  unfold Instr.length; cases i.shape <;> simp [Shape.format, Format.length]

theorem Entry.length_pos (e : Entry) : 0 < e.length := by
  cases e with
  | ins i => exact i.length_pos
  | unknown b => exact Nat.one_pos

theorem Entry.length_le (e : Entry) : e.length ≤ 4 := by
  cases e with
  | ins i => exact i.length_le
  | unknown b => simp [Entry.length, Entry.format, Format.length]

@[simp] theorem Entry.bytes_length (e : Entry) : e.bytes.length = e.length := by
  cases e with
  | ins i => exact encode_length i
  | unknown b => rfl

theorem Class.length_pos (c : Class) : 0 < c.length := by cases c <;> simp [Class.length]

theorem Class.length_le (c : Class) : c.length ≤ 4 := by cases c <;> simp [Class.length]

/-- Whether a byte starts an instruction does not depend on the byte after it. -/
theorem classify_none (b0 b1 b1' : Byte) (h : classify b0 b1 = none) : classify b0 b1' = none := by
  unfold classify at h ⊢
  split at h
  · simp at h
  · split at h
    · simp at h
    · split at h
      · rfl
      · split at h
        · simp at h
        · split at h <;> simp at h

theorem illegalFirstByte_iff (b0 b1 : Byte) : illegalFirstByte b0 = true ↔ classify b0 b1 = none := by
  simp only [illegalFirstByte, Option.isNone_iff_eq_none]
  exact ⟨classify_none _ _ _, classify_none _ _ _⟩

/-- A class of at most two bytes, or of SIC format, does not depend on the second byte; else the class has three or four
bytes whatever it is. -/
theorem classify_second (b0 b1 b1' : Byte) (c : Class) (h : classify b0 b1 = some c) :
    classify b0 b1' = some c ∨ (3 ≤ c.length ∧ ∃ c', classify b0 b1' = some c' ∧ 3 ≤ c'.length) := by
  unfold classify at h ⊢
  split at h
  · exact .inl h
  · split at h
    · exact .inl h
    · split at h
      · simp at h
      · split at h
        · rename_i h4
          simp only [h4, if_true] at *
          exact .inl h
        · rename_i h4
          right
          simp only [h4, if_false]
          constructor
          · split at h <;> (simp only [Option.some.injEq] at h; subst h; simp [Class.length])
          · split
            · exact ⟨_, rfl, by simp [Class.length]⟩
            · exact ⟨_, rfl, by simp [Class.length]⟩

/-- `needsSecondByte` is false exactly when the class is settled by the first byte. -/
theorem classify_of_not_needs {b0 : Byte} (h : needsSecondByte b0 = false) (b1 b1' : Byte) :
    classify b0 b1 = classify b0 b1' := by
  unfold needsSecondByte at h
  unfold classify at h ⊢
  split
  · rfl
  · rename_i h1
    split
    · rfl
    · rename_i h2
      split
      · rfl
      · rename_i h3
        simp only [h1, h2, h3] at h
        by_cases h4 : b0.extractLsb' 0 2 = 0#2
        · simp [h4]
        · simp only [show (0 : BitVec 2) = 0#2 from rfl, h4, if_false] at h
          simp at h

/-- The classifier finds the class of the bytes an instruction is encoded to (R61, R68). -/
theorem classify_bytes (sh : Shape) (h : sh.wellFormed = true) (b : Byte) :
    classify (sh.bytes.getD 0 0) ((sh.bytes ++ [b]).getD 1 0) = some sh.cls := by
  cases sh with
  | f1 op => simp [classify, Shape.bytes, Shape.cls, Op1.ofByte?_code]
  | f2 op r1 r2 => simp [classify, Shape.bytes, Shape.cls, Op1.ofByte?_code2, Op2.ofByte?_code]
  | sic op m =>
    have h1 := Op1.ofByte?_opcodeByte op .sic
    have h2 := Op2.ofByte?_opcodeByte op .sic
    have h3 := Op34.ofByte?_opcodeByte op .sic
    have h4 := opcodeByte_ni op .sic
    rw [opcodeByte_sic] at h1 h2 h3 h4
    simp [classify, Shape.bytes, Shape.cls, h1, h2, h3, h4, AbsMode.bits]
  | f3 op m =>
    have hne : ¬ m.abs.bits = 0#2 := by
      simp only [Shape.wellFormed, F3Operand.wellFormed, bne_iff_ne] at h
      exact fun e => h (AbsMode.bits_eq_zero.mp e)
    simp [classify, Shape.bytes, Shape.cls, Op1.ofByte?_opcodeByte, Op2.ofByte?_opcodeByte, Op34.ofByte?_opcodeByte,
      opcodeByte_ni, hne, -BitVec.getLsbD_eq_getElem, modeByte_e]
  | f4 op m =>
    have hne : ¬ m.abs.bits = 0#2 := by
      simp only [Shape.wellFormed, F4Operand.wellFormed, bne_iff_ne] at h
      exact fun e => h (AbsMode.bits_eq_zero.mp e)
    simp [classify, Shape.bytes, Shape.cls, Op1.ofByte?_opcodeByte, Op2.ofByte?_opcodeByte, Op34.ofByte?_opcodeByte,
      opcodeByte_ni, hne, -BitVec.getLsbD_eq_getElem, modeByte_e]

/-- The fields are read from the bytes as they were written (R66, R68). -/
theorem decodeOne_bytes (sh : Shape) (rest : List Byte) :
    decodeOne ((sh.bytes ++ rest).getD 0 0) ((sh.bytes ++ rest).getD 1 0) ((sh.bytes ++ rest).getD 2 0)
      ((sh.bytes ++ rest).getD 3 0) sh.cls = sh := by
  cases sh with
  | f1 op => rfl
  | f2 op r1 r2 => simp [Shape.bytes, Shape.cls, decodeOne, nibbles_high, nibbles_low]
  | sic op m =>
    obtain ⟨x, a⟩ := m
    simp only [Shape.bytes, Shape.cls, decodeOne, SicOperand.ofBytes, List.cons_append, List.getD_cons_succ,
      List.getD_cons_zero, sicByte_x, sicByte_low]
    rw [join_extract (n := 7) (k := 8) a]
  | f3 op m =>
    obtain ⟨abs, rel, x, d⟩ := m
    simp only [Shape.bytes, Shape.cls, decodeOne, F3Operand.ofBytes, List.cons_append, List.getD_cons_succ,
      List.getD_cons_zero, modeByte_x, modeByte_rel, modeByte_high, opcodeByte_ni, AbsMode.ofBits_bits,
      RelMode.ofBits_bits]
    rw [join_extract (n := 4) (k := 8) d]
  | f4 op m =>
    obtain ⟨abs, rel, x, a⟩ := m
    simp only [Shape.bytes, Shape.cls, decodeOne, F4Operand.ofBytes, List.cons_append, List.getD_cons_succ,
      List.getD_cons_zero, modeByte_x, modeByte_rel, modeByte_high, opcodeByte_ni, AbsMode.ofBits_bits,
      RelMode.ofBits_bits]
    have : a.extractLsb' 16 4 ++ a.extractLsb' 8 8 ++ a.extractLsb' 0 8 = a := by
      have e1 : (a.extractLsb' 8 12).extractLsb' 8 4 ++ (a.extractLsb' 8 12).extractLsb' 0 8 = a.extractLsb' 8 12 :=
        join_extract (n := 4) (k := 8) _
      have e2 : (a.extractLsb' 8 12).extractLsb' 8 4 = a.extractLsb' 16 4 := by
        apply BitVec.eq_of_getLsbD_eq
        intro i hi
        have : 8 + i < 12 := by omega
        simp [hi, this, ← Nat.add_assoc]
      have e3 : (a.extractLsb' 8 12).extractLsb' 0 8 = a.extractLsb' 8 8 := by
        apply BitVec.eq_of_getLsbD_eq
        intro i hi
        have : i < 12 := by omega
        simp [hi, this]
      rw [← e2, ← e3, e1]
      exact join_extract (n := 12) (k := 8) a
    rw [this]

end Sys2Proof
end

