-- ==== Sys2Proof/Laws/Entries.lean ====
section
/-! SUPPORT. The laws of the program image (spec/10_state.md R29): lookup after insert, and every operation on entries
keeps the canonical form (log entry 7). -/

namespace Sys2Proof.Machine

/-- The canonical form says of the first entry that it is in memory and lies below the others. -/
theorem Entries.wf_cons (k : Nat) (e : Entry) (es : Entries) :
    Entries.wf ((k, e) :: es) = true ↔
      k < Config.memSize ∧ Entries.wf es = true ∧ ∀ p ∈ es, k < p.1 := by
  induction es generalizing k e with
  | nil => simp [Entries.wf]
  | cons p rest ih =>
    obtain ⟨k', e'⟩ := p
    have step : Entries.wf ((k, e) :: (k', e') :: rest) = true ↔
        k < k' ∧ Entries.wf ((k', e') :: rest) = true := by
      simp [Entries.wf]
    rw [step, ih]
    constructor
    · rintro ⟨hk, hk', hw, ha⟩
      refine ⟨by omega, ⟨hk', hw, ha⟩, ?_⟩
      intro p hp
      rcases List.mem_cons.mp hp with rfl | hp
      · exact hk
      · exact lt_trans hk (ha p hp)
    · rintro ⟨-, hw, ha⟩
      exact ⟨ha (k', e') (by simp), hw⟩

@[simp] theorem Entries.lookup_nil (a : Nat) : Entries.lookup [] a = none := rfl

/-- A looked-up entry is in the list. -/
theorem Entries.mem_of_lookup {es : Entries} {a : Nat} {e : Entry} (h : es.lookup a = some e) : (a, e) ∈ es := by
  induction es with
  | nil => simp at h
  | cons p rest ih =>
    obtain ⟨k, x⟩ := p
    simp only [Entries.lookup] at h
    split at h
    · rename_i hk; subst hk; simp only [Option.some.injEq] at h; subst h; simp
    · exact List.mem_cons_of_mem _ (ih h)

/-- In canonical form every listed entry is looked up. -/
theorem Entries.lookup_of_mem {es : Entries} (h : es.wf = true) {a : Nat} {e : Entry} (hm : (a, e) ∈ es) :
    es.lookup a = some e := by
  induction es with
  | nil => simp at hm
  | cons p rest ih =>
    obtain ⟨k, x⟩ := p
    obtain ⟨-, hw, ha⟩ := (Entries.wf_cons k x rest).mp h
    rcases List.mem_cons.mp hm with heq | hm
    · simp only [Prod.mk.injEq] at heq
      simp [Entries.lookup, heq.1, heq.2]
    · have : k ≠ a := by have := ha _ hm; simp at this; omega
      simp [Entries.lookup, this, ih hw hm]

/-- Lookup in joined lists: the first list that has the address answers. -/
theorem Entries.lookup_append (es fs : Entries) (a : Nat) :
    Entries.lookup (es ++ fs) a = (es.lookup a).or (fs.lookup a) := by
  induction es with
  | nil => simp
  | cons p rest ih =>
    obtain ⟨k, x⟩ := p
    simp only [List.cons_append, Entries.lookup, ih]
    split <;> simp

theorem Entries.lookup_below (es : Entries) (a b : Nat) :
    (es.below a).lookup b = if b < a then es.lookup b else none := by
  induction es with
  | nil => simp [Entries.below]
  | cons p rest ih =>
    obtain ⟨k, x⟩ := p
    unfold Entries.below at ih ⊢
    by_cases hk : k < a
    · rw [List.filter_cons_of_pos (by simpa using hk)]
      simp only [Entries.lookup, ih]
      by_cases hkb : k = b
      · subst hkb; simp [hk]
      · simp [hkb]
    · rw [List.filter_cons_of_neg (by simpa using hk), ih]
      by_cases hb : b < a
      · have : k ≠ b := by omega
        simp [hb, Entries.lookup, this]
      · simp [hb]

theorem Entries.lookup_erase (es : Entries) (a b : Nat) :
    (es.erase a).lookup b = if b = a then none else es.lookup b := by
  induction es with
  | nil => simp [Entries.erase]
  | cons p rest ih =>
    obtain ⟨k, x⟩ := p
    unfold Entries.erase at ih ⊢
    by_cases hk : k = a
    · rw [List.filter_cons_of_neg (by simpa using hk), ih]
      by_cases hb : b = a
      · simp [hb]
      · have : k ≠ b := by omega
        simp [hb, Entries.lookup, this]
    · rw [List.filter_cons_of_pos (by simpa using hk)]
      simp only [Entries.lookup, ih]
      by_cases hkb : k = b
      · have : b ≠ a := by omega
        simp [hkb, this]
      · simp [hkb]

/-- The entry set is looked up, and every other address answers as before. -/
theorem Entries.lookup_insert {es : Entries} (h : es.wf = true) (a b : Nat) (e : Entry) :
    (es.insert a e).lookup b = if b = a then some e else es.lookup b := by
  induction es with
  | nil => simp [Entries.insert, Entries.lookup, eq_comm]
  | cons p rest ih =>
    obtain ⟨k, x⟩ := p
    obtain ⟨-, hw, ha⟩ := (Entries.wf_cons k x rest).mp h
    unfold Entries.insert
    split
    · by_cases hb : b = a
      · simp [Entries.lookup, hb]
      · have : a ≠ b := fun e => hb e.symm
        simp [Entries.lookup, hb, this]
    · split
      · rename_i hak
        subst hak
        by_cases hb : b = a
        · simp [Entries.lookup, hb]
        · have : a ≠ b := fun e => hb e.symm
          simp [Entries.lookup, hb, this]
      · by_cases hkb : k = b
        · have : b ≠ a := by omega
          simp [Entries.lookup, hkb, this]
        · simp only [Entries.lookup, hkb, if_false, ih hw]

/-- What is listed after setting an entry was listed before, or is that entry. -/
theorem Entries.mem_insert {es : Entries} {a : Nat} {e : Entry} {p : Nat × Entry} (h : p ∈ es.insert a e) :
    p = (a, e) ∨ p ∈ es := by
  induction es with
  | nil => left; simpa [Entries.insert] using h
  | cons q rest ih =>
    obtain ⟨k, x⟩ := q
    unfold Entries.insert at h
    split at h
    · simpa using h
    · split at h
      · rcases List.mem_cons.mp h with h | h
        · exact .inl h
        · exact .inr (List.mem_cons_of_mem _ h)
      · rcases List.mem_cons.mp h with h | h
        · exact .inr (by simp [h])
        · rcases ih h with h | h
          · exact .inl h
          · exact .inr (List.mem_cons_of_mem _ h)

/-- Setting an entry inside memory keeps the canonical form. -/
theorem Entries.wf_insert {es : Entries} (h : es.wf = true) {a : Nat} (ha : a < Config.memSize) (e : Entry) :
    (es.insert a e).wf = true := by
  induction es with
  | nil => simp [Entries.insert, Entries.wf, ha]
  | cons p rest ih =>
    obtain ⟨k, x⟩ := p
    obtain ⟨hk, hw, hab⟩ := (Entries.wf_cons k x rest).mp h
    unfold Entries.insert
    split
    · rename_i hak
      refine (Entries.wf_cons _ _ _).mpr ⟨ha, h, fun q hq => ?_⟩
      rcases List.mem_cons.mp hq with rfl | hq
      · exact hak
      · exact lt_trans hak (hab q hq)
    · split
      · rename_i hak
        exact (Entries.wf_cons _ _ _).mpr ⟨ha, hw, hak ▸ hab⟩
      · refine (Entries.wf_cons _ _ _).mpr ⟨hk, ih hw, fun q hq => ?_⟩
        rcases Entries.mem_insert hq with rfl | hq
        · simp; omega
        · exact hab q hq

/-- Setting entries inside memory keeps the canonical form. -/
theorem Entries.wf_insertAll {es : Entries} (h : es.wf = true) {fs : List (Nat × Entry)}
    (hf : ∀ p ∈ fs, p.1 < Config.memSize) : (es.insertAll fs).wf = true := by
  induction fs generalizing es with
  | nil => exact h
  | cons p rest ih =>
    obtain ⟨a, e⟩ := p
    exact ih (Entries.wf_insert h (hf (a, e) (by simp)) e) fun q hq => hf q (by simp [hq])

theorem Entries.insertAll_append (es : Entries) (fs gs : List (Nat × Entry)) :
    es.insertAll (fs ++ gs) = (es.insertAll fs).insertAll gs := by
  induction fs generalizing es with
  | nil => rfl
  | cons p rest ih => obtain ⟨a, e⟩ := p; exact ih _

theorem Entries.wf_filter {es : Entries} (h : es.wf = true) (q : Nat × Entry → Bool) :
    Entries.wf (es.filter q) = true := by
  induction es with
  | nil => rfl
  | cons p rest ih =>
    obtain ⟨k, x⟩ := p
    obtain ⟨hk, hw, hab⟩ := (Entries.wf_cons k x rest).mp h
    by_cases hq : q (k, x) = true
    · rw [List.filter_cons_of_pos hq]
      exact (Entries.wf_cons _ _ _).mpr ⟨hk, ih hw, fun p hp => hab p (List.mem_filter.mp hp).1⟩
    · rw [List.filter_cons_of_neg (by simpa using hq)]
      exact ih hw

theorem Entries.wf_below {es : Entries} (h : es.wf = true) (a : Nat) : (es.below a).wf = true :=
  Entries.wf_filter h _

theorem Entries.wf_erase {es : Entries} (h : es.wf = true) (a : Nat) : (es.erase a).wf = true :=
  Entries.wf_filter h _

theorem Entries.mem_below {es : Entries} {a : Nat} {p : Nat × Entry} (h : p ∈ es.below a) : p.1 < a ∧ p ∈ es := by
  have := List.mem_filter.mp h
  exact ⟨by simpa using this.2, this.1⟩

/-- Joined lists are canonical when both are and the first lies below the second. -/
theorem Entries.wf_append {es fs : Entries} (he : es.wf = true) (hf : fs.wf = true)
    (h : ∀ p ∈ es, ∀ q ∈ fs, p.1 < q.1) : Entries.wf (es ++ fs) = true := by
  induction es with
  | nil => exact hf
  | cons p rest ih =>
    obtain ⟨k, x⟩ := p
    obtain ⟨hk, hw, hab⟩ := (Entries.wf_cons k x rest).mp he
    refine (Entries.wf_cons _ _ _).mpr ⟨hk, ih hw fun p hp => h p (by simp [hp]), fun q hq => ?_⟩
    rcases List.mem_append.mp hq with hq | hq
    · exact hab q hq
    · exact h (k, x) (by simp) q hq

end Sys2Proof.Machine
end

