-- ==== Sys2Proof/Laws/Memory.lean ====
section
/-! SUPPORT. The laws of memory (spec/20_memory.md): read after write, and every memory operation keeps the canonical form
(log entry 7). -/

namespace Sys2Proof.Machine

/-- Every listed byte stands above `lo`: the tail of a canonical memory. -/
def Memory.above (lo : Nat) (m : Memory) : Prop := ∀ p ∈ m, lo < p.1

@[simp] theorem Memory.wf_nil : Memory.wf [] = true := rfl

/-- The memory right after reset is canonical (10_state.md R36). -/
theorem State.reset_mem_wf : State.reset.mem.wf = true := rfl

@[simp] theorem Memory.get_nil (a : Nat) : Memory.get [] a = Config.unlistedByte := rfl

@[simp] theorem Memory.getBytes_zero (m : Memory) (a : Nat) : m.getBytes a 0 = [] := rfl

@[simp] theorem Memory.setBytes_nil (m : Memory) (a : Nat) : m.setBytes a [] = m := rfl

@[simp] theorem Memory.getBytes_length (m : Memory) (a n : Nat) : (m.getBytes a n).length = n := by
  induction n generalizing a with
  | zero => rfl
  | succ n ih => simp [Memory.getBytes, ih]

/-- The canonical form says of the first byte that it is in memory, is no unlisted value, and lies below the others. -/
theorem Memory.wf_cons (k : Nat) (b : Byte) (m : Memory) :
    Memory.wf ((k, b) :: m) = true ↔
      k < Config.memSize ∧ b ≠ Config.unlistedByte ∧ Memory.wf m = true ∧ Memory.above k m := by
  induction m generalizing k b with
  | nil => simp [Memory.wf, Memory.above]
  | cons p rest ih =>
    obtain ⟨k', b'⟩ := p
    have step : Memory.wf ((k, b) :: (k', b') :: rest) = true ↔
        k < k' ∧ b ≠ Config.unlistedByte ∧ Memory.wf ((k', b') :: rest) = true := by
      simp [Memory.wf, and_assoc]
    rw [step, ih]
    constructor
    · rintro ⟨hk, hb, hk', hb', hw, ha⟩
      refine ⟨by omega, hb, ⟨hk', hb', hw, ha⟩, ?_⟩
      intro p hp
      rcases List.mem_cons.mp hp with rfl | hp
      · exact hk
      · exact lt_trans hk (ha p hp)
    · rintro ⟨-, hb, hw, ha⟩
      exact ⟨ha (k', b') (by simp), hb, hw⟩

/-- A byte below all listed ones reads as an unlisted byte. -/
theorem Memory.get_of_above {lo : Nat} {m : Memory} (h : Memory.above lo m) {a : Nat} (ha : a ≤ lo) :
    m.get a = Config.unlistedByte := by
  induction m with
  | nil => rfl
  | cons p rest ih =>
    obtain ⟨k, b⟩ := p
    have hk : lo < k := h (k, b) (by simp)
    have hne : k ≠ a := by omega
    simp only [Memory.get, hne, if_false]
    exact ih fun q hq => h q (by simp [hq])

theorem Memory.above_set {lo a : Nat} {m : Memory} (h : Memory.above lo m) (ha : lo < a) (v : Byte) :
    Memory.above lo (m.set a v) := by
  induction m with
  | nil => unfold Memory.set; split <;> simp [Memory.above, ha]
  | cons p rest ih =>
    obtain ⟨k, b⟩ := p
    have hk : lo < k := h (k, b) (by simp)
    have hr : Memory.above lo rest := fun q hq => h q (by simp [hq])
    intro q hq
    unfold Memory.set at hq
    split at hq
    · split at hq
      · exact h q hq
      · rcases List.mem_cons.mp hq with rfl | hq
        · exact ha
        · exact h q hq
    · split at hq
      · split at hq
        · exact hr q hq
        · rcases List.mem_cons.mp hq with rfl | hq
          · exact ha
          · exact hr q hq
      · rcases List.mem_cons.mp hq with rfl | hq
        · exact hk
        · exact ih hr q hq

/-- Writing a byte of memory keeps the canonical form. -/
theorem Memory.wf_set {m : Memory} (h : m.wf = true) {a : Nat} (ha : a < Config.memSize) (v : Byte) :
    (m.set a v).wf = true := by
  induction m with
  | nil =>
    unfold Memory.set
    split
    · rfl
    · rename_i hv
      simp [Memory.wf, ha, hv]
  | cons p rest ih =>
    obtain ⟨k, b⟩ := p
    have hc := (Memory.wf_cons k b rest).mp h
    unfold Memory.set
    split
    · rename_i hak
      split
      · exact h
      · rename_i hv
        refine (Memory.wf_cons _ _ _).mpr ⟨ha, hv, h, ?_⟩
        intro q hq
        rcases List.mem_cons.mp hq with rfl | hq
        · exact hak
        · exact lt_trans hak (hc.2.2.2 q hq)
    · split
      · rename_i hak
        split
        · exact hc.2.2.1
        · rename_i hv
          exact (Memory.wf_cons _ _ _).mpr ⟨ha, hv, hc.2.2.1, hak ▸ hc.2.2.2⟩
      · rename_i h1 h2
        exact (Memory.wf_cons _ _ _).mpr
          ⟨hc.1, hc.2.1, ih hc.2.2.1, Memory.above_set hc.2.2.2 (by omega) v⟩

/-- A byte reads as what was last written to it, and every other byte as before. -/
theorem Memory.get_set {m : Memory} (h : m.wf = true) (a b : Nat) (v : Byte) :
    (m.set a v).get b = if b = a then v else m.get b := by
  induction m with
  | nil =>
    by_cases hv : v = Config.unlistedByte <;> simp [Memory.set, hv, Memory.get, eq_comm]
  | cons p rest ih =>
    obtain ⟨k, x⟩ := p
    obtain ⟨-, hx, hw, hab⟩ := (Memory.wf_cons k x rest).mp h
    unfold Memory.set
    split
    · rename_i hak
      split
      · rename_i hv
        split
        · rename_i hba
          have : Memory.get ((k, x) :: rest) b = Config.unlistedByte := by
            have hkb : k ≠ b := by omega
            simp only [Memory.get, hkb, if_false]
            exact Memory.get_of_above hab (by omega)
          rw [this, hv]
        · rfl
      · simp only [Memory.get, eq_comm]
    · split
      · rename_i hak
        subst hak
        split
        · rename_i hv
          split
          · rename_i hba
            rw [hba, Memory.get_of_above hab (le_refl _), hv]
          · rename_i hba
            have : a ≠ b := fun e => hba e.symm
            simp [Memory.get, this]
        · by_cases hba : b = a
          · simp [Memory.get, hba]
          · have : a ≠ b := fun e => hba e.symm
            simp [Memory.get, hba, this]
      · rename_i h1 h2
        by_cases hkb : k = b
        · have : b ≠ a := by omega
          simp [Memory.get, hkb, this]
        · simp only [Memory.get, hkb, if_false, ih hw]

/-- The bytes after a write of several: those written where they were written, the others as before. -/
theorem Memory.get_setBytes {m : Memory} {bytes : List Byte} {a : Nat} (h : m.wf = true)
    (hr : a + bytes.length ≤ Config.memSize) (b : Nat) :
    (m.setBytes a bytes).get b =
      if a ≤ b ∧ b < a + bytes.length then bytes.getD (b - a) Config.unlistedByte else m.get b := by
  induction bytes generalizing m a with
  | nil => rw [if_neg (by simp)]; rfl
  | cons x xs ih =>
    simp only [List.length_cons] at hr
    rw [Memory.setBytes, ih (Memory.wf_set h (by omega) x) (by omega), Memory.get_set h]
    by_cases hb : b = a
    · subst hb; simp
    · by_cases hin : a + 1 ≤ b ∧ b < a + 1 + xs.length
      · obtain ⟨d, rfl⟩ : ∃ d, b = a + 1 + d := ⟨b - (a + 1), by omega⟩
        have e1 : a + 1 + d - (a + 1) = d := by omega
        have e2 : a + 1 + d - a = d + 1 := by omega
        simp only [List.length_cons]
        rw [if_pos hin, if_pos (by omega), e1, e2, List.getD_cons_succ]
      · simp only [List.length_cons]
        rw [if_neg hin, if_neg hb, if_neg (by omega)]

/-- Writing bytes of memory keeps the canonical form. -/
theorem Memory.wf_setBytes {m : Memory} {bytes : List Byte} {a : Nat} (h : m.wf = true)
    (hr : a + bytes.length ≤ Config.memSize) : (m.setBytes a bytes).wf = true := by
  induction bytes generalizing m a with
  | nil => exact h
  | cons x xs ih =>
    simp only [List.length_cons] at hr
    exact ih (Memory.wf_set h (by omega) x) (by omega)

theorem Memory.setBytes_append (m : Memory) (a : Nat) (xs ys : List Byte) :
    m.setBytes a (xs ++ ys) = (m.setBytes a xs).setBytes (a + xs.length) ys := by
  induction xs generalizing m a with
  | nil => rfl
  | cons x xs ih =>
    simp only [List.cons_append, Memory.setBytes, ih, List.length_cons]
    congr 1
    omega

/-- A canonical memory lists nothing above the address range. -/
theorem Memory.get_outside {m : Memory} (h : m.wf = true) {a : Nat} (ha : Config.memSize ≤ a) :
    m.get a = Config.unlistedByte := by
  induction m with
  | nil => rfl
  | cons p rest ih =>
    obtain ⟨k, b⟩ := p
    obtain ⟨hk, -, hw, -⟩ := (Memory.wf_cons k b rest).mp h
    have hne : k ≠ a := by omega
    simp [Memory.get, hne, ih hw]

/-- Two canonical memories in which every byte reads the same are the same memory. -/
theorem Memory.eq_of_get {m n : Memory} (hm : m.wf = true) (hn : n.wf = true) (h : ∀ a, m.get a = n.get a) :
    m = n := by
  induction m generalizing n with
  | nil =>
    cases n with
    | nil => rfl
    | cons p rest =>
      obtain ⟨k, b⟩ := p
      have := h k
      have hb := ((Memory.wf_cons k b rest).mp hn).2.1
      simp [Memory.get] at this
      exact absurd this.symm hb
  | cons p rest ih =>
    obtain ⟨k, b⟩ := p
    obtain ⟨-, hb, hw, ha⟩ := (Memory.wf_cons k b rest).mp hm
    cases n with
    | nil => simpa [Memory.get, hb] using h k
    | cons q rest' =>
      obtain ⟨k', b'⟩ := q
      obtain ⟨-, hb', hw', ha'⟩ := (Memory.wf_cons k' b' rest').mp hn
      have hkk : k = k' := by
        rcases lt_trichotomy k k' with hlt | heq | hgt
        · have := h k
          have hne : k' ≠ k := by omega
          simp only [Memory.get, hne, if_true, if_false] at this
          rw [Memory.get_of_above ha' (by omega)] at this
          exact absurd this hb
        · exact heq
        · have := h k'
          have hne : k ≠ k' := by omega
          simp only [Memory.get, hne, if_true, if_false] at this
          rw [Memory.get_of_above ha (by omega)] at this
          exact absurd this.symm hb'
      subst hkk
      have hbb : b = b' := by simpa [Memory.get] using h k
      subst hbb
      congr 1
      refine ih hw hw' fun a => ?_
      have := h a
      by_cases hka : k = a
      · subst hka
        rw [Memory.get_of_above ha (le_refl _), Memory.get_of_above ha' (le_refl _)]
      · simpa [Memory.get, hka] using this

@[simp] theorem wordBytes_length (w : Word) : (wordBytes w).length = 3 := rfl

@[simp] theorem wideBytes_length (w : Wide) : (wideBytes w).length = 6 := rfl

@[simp] theorem inRange_iff (a n : Nat) : inRange a n = true ↔ a + n ≤ Config.memSize := by simp [inRange]

/-- The one thing a write can do (20_memory.md R42): all bytes inside memory, and then exactly they are replaced. -/
theorem memWriteBytes_spec {m m' : Memory} {a : Nat} {bytes : List Byte} (h : memWriteBytes m a bytes = .ok m') :
    a + bytes.length ≤ Config.memSize ∧ m' = m.setBytes a bytes := by
  unfold memWriteBytes at h
  split at h
  · rename_i hr
    exact ⟨by simpa using hr, by simpa using h.symm⟩
  · simp at h

theorem memWriteBytes_ok {m : Memory} {a : Nat} {bytes : List Byte} (h : a + bytes.length ≤ Config.memSize) :
    memWriteBytes m a bytes = .ok (m.setBytes a bytes) := by
  simp [memWriteBytes, inRange, h]

theorem memWriteBytes_error {m : Memory} {a : Nat} {bytes : List Byte} (h : ¬ a + bytes.length ≤ Config.memSize) :
    memWriteBytes m a bytes = .error (.addressError a bytes.length) := by
  simp [memWriteBytes, inRange, h]

/-- Every memory write keeps the canonical form. -/
theorem memWriteBytes_wf {m m' : Memory} {a : Nat} {bytes : List Byte} (hm : m.wf = true)
    (h : memWriteBytes m a bytes = .ok m') : m'.wf = true := by
  obtain ⟨hr, rfl⟩ := memWriteBytes_spec h
  exact Memory.wf_setBytes hm hr

theorem memWriteByte_wf {m m' : Memory} {a : Nat} {v : Byte} (hm : m.wf = true) (h : memWriteByte m a v = .ok m') :
    m'.wf = true := memWriteBytes_wf hm h

theorem memWriteWord_wf {m m' : Memory} {a : Nat} {v : Word} (hm : m.wf = true) (h : memWriteWord m a v = .ok m') :
    m'.wf = true := memWriteBytes_wf hm h

theorem memWriteWide_wf {m m' : Memory} {a : Nat} {v : Wide} (hm : m.wf = true) (h : memWriteWide m a v = .ok m') :
    m'.wf = true := memWriteBytes_wf hm h

theorem memReadWord_ok {m : Memory} {a : Nat} (h : a + 3 ≤ Config.memSize) :
    memReadWord m a = .ok (m.get a ++ m.get (a + 1) ++ m.get (a + 2)) := by
  simp [memReadWord, inRange, h]

theorem memReadWord_error {m : Memory} {a : Nat} (h : ¬ a + 3 ≤ Config.memSize) :
    memReadWord m a = .error (.addressError a 3) := by
  simp [memReadWord, inRange, h]

theorem memReadByte_ok {m : Memory} {a : Nat} (h : a < Config.memSize) : memReadByte m a = .ok (m.get a) := by
  simp [memReadByte, inRange, Nat.succ_le_of_lt h]

theorem memReadByte_error {m : Memory} {a : Nat} (h : ¬ a < Config.memSize) :
    memReadByte m a = .error (.addressError a 1) := by
  have : ¬ a + 1 ≤ Config.memSize := by omega
  simp [memReadByte, inRange, this]

/-- A word write that succeeds (20_memory.md R40, R42): the three bytes, most significant first, and no other. -/
theorem memWriteWord_spec {m m' : Memory} {a : Nat} {v : Word} (hm : m.wf = true) (h : memWriteWord m a v = .ok m') :
    a + 3 ≤ Config.memSize ∧ m'.wf = true ∧ m'.get a = v.extractLsb' 16 8 ∧ m'.get (a + 1) = v.extractLsb' 8 8
      ∧ m'.get (a + 2) = v.extractLsb' 0 8 ∧ ∀ b, b < a ∨ a + 3 ≤ b → m'.get b = m.get b := by
  obtain ⟨hr, rfl⟩ := memWriteBytes_spec h
  have hg := fun b => Memory.get_setBytes hm hr b
  refine ⟨hr, Memory.wf_setBytes hm hr, ?_, ?_, ?_, ?_⟩
  · rw [hg]; simp [wordBytes]
  · rw [hg]; simp [wordBytes]
  · rw [hg]; simp [wordBytes]
  · intro b hb
    rw [hg, if_neg (by simp [wordBytes]; omega)]

/-- A byte write that succeeds (20_memory.md R42). -/
theorem memWriteByte_spec {m m' : Memory} {a : Nat} {v : Byte} (hm : m.wf = true) (h : memWriteByte m a v = .ok m') :
    a < Config.memSize ∧ m'.wf = true ∧ m'.get a = v ∧ ∀ b, b ≠ a → m'.get b = m.get b := by
  obtain ⟨hr, rfl⟩ := memWriteBytes_spec h
  have hg := fun b => Memory.get_setBytes hm hr b
  simp only [List.length_singleton] at hr
  refine ⟨by omega, Memory.wf_setBytes hm (by simpa using hr), ?_, ?_⟩
  · rw [hg]; simp
  · intro b hb
    rw [hg, if_neg (by simp; omega)]

/-- A word put together from its three bytes (20_memory.md R40). -/
theorem word_of_bytes (v : Word) : v.extractLsb' 16 8 ++ v.extractLsb' 8 8 ++ v.extractLsb' 0 8 = v := by
  apply BitVec.eq_of_getLsbD_eq
  intro i hi
  simp only [BitVec.getLsbD_append, BitVec.getLsbD_extractLsb']
  rcases Nat.lt_or_ge i 8 with h | h
  · simp [h]
  · rcases Nat.lt_or_ge i 16 with h' | h'
    · have e : 8 + (i - 8) = i := by omega
      have : i - 8 < 8 := by omega
      simp [this, e]; omega
    · have e : 16 + (i - 8 - 8) = i := by omega
      have h1 : ¬ i < 8 := by omega
      have h2 : ¬ i - 8 < 8 := by omega
      have h3 : i - 8 - 8 < 8 := by omega
      simp [h1, h2, h3, e]

end Sys2Proof.Machine
end

