-- ==== Sys2Proof/Laws/State.lean ====
section
/-! SUPPORT. One lemma per field for every update of State, and for a register write one per register, so that no later
proof unfolds a record update. -/

namespace Sys2Proof.Machine

/-! ## A register written by name (spec/10_state.md R23) -/

@[simp] theorem Regs.set_A (r : Regs) (v : Word) : r.set .A v = { r with A := v } := rfl

@[simp] theorem Regs.set_X (r : Regs) (v : Word) : r.set .X v = { r with X := v } := rfl

@[simp] theorem Regs.set_L (r : Regs) (v : Word) : r.set .L v = { r with L := v } := rfl

@[simp] theorem Regs.set_B (r : Regs) (v : Word) : r.set .B v = { r with B := v } := rfl

@[simp] theorem Regs.set_S (r : Regs) (v : Word) : r.set .S v = { r with S := v } := rfl

@[simp] theorem Regs.set_T (r : Regs) (v : Word) : r.set .T v = { r with T := v } := rfl

@[simp] theorem Regs.set_PC (r : Regs) (v : Word) : r.set .PC v = { r with PC := v } := rfl

@[simp] theorem Regs.set_SW (r : Regs) (v : Word) : r.set .SW v = { r with SW := v } := rfl

@[simp] theorem Regs.set_F (r : Regs) (v : Word) : r.set .F v = { r with F := v ++ (0 : Word) } := rfl

@[simp] theorem Regs.get_A (r : Regs) : r.get .A = r.A := rfl

@[simp] theorem Regs.get_X (r : Regs) : r.get .X = r.X := rfl

@[simp] theorem Regs.get_L (r : Regs) : r.get .L = r.L := rfl

@[simp] theorem Regs.get_B (r : Regs) : r.get .B = r.B := rfl

@[simp] theorem Regs.get_S (r : Regs) : r.get .S = r.S := rfl

@[simp] theorem Regs.get_T (r : Regs) : r.get .T = r.T := rfl

@[simp] theorem Regs.get_PC (r : Regs) : r.get .PC = r.PC := rfl

@[simp] theorem Regs.get_SW (r : Regs) : r.get .SW = r.SW := rfl

@[simp] theorem Regs.get_F (r : Regs) : r.get .F = r.F.extractLsb' 24 24 := rfl

/-! ## setReg -/

@[simp] theorem State.setReg_regs (s : State) (n : Reg) (v : Word) : (s.setReg n v).regs = s.regs.set n v := rfl

@[simp] theorem State.setReg_mem (s : State) (n : Reg) (v : Word) : (s.setReg n v).mem = s.mem := rfl

@[simp] theorem State.setReg_image (s : State) (n : Reg) (v : Word) : (s.setReg n v).image = s.image := rfl

@[simp] theorem State.setReg_control (s : State) (n : Reg) (v : Word) : (s.setReg n v).control = s.control := rfl

@[simp] theorem State.setReg_loader (s : State) (n : Reg) (v : Word) : (s.setReg n v).loader = s.loader := rfl

@[simp] theorem State.setReg_trace (s : State) (n : Reg) (v : Word) : (s.setReg n v).trace = s.trace := rfl

@[simp] theorem State.setReg_dev (s : State) (n : Reg) (v : Word) : (s.setReg n v).dev = s.dev := rfl

/-! ## setMem -/

@[simp] theorem State.setMem_regs (s : State) (m : Memory) : (s.setMem m).regs = s.regs := rfl

@[simp] theorem State.setMem_mem (s : State) (m : Memory) : (s.setMem m).mem = m := rfl

@[simp] theorem State.setMem_image (s : State) (m : Memory) : (s.setMem m).image = s.image := rfl

@[simp] theorem State.setMem_control (s : State) (m : Memory) : (s.setMem m).control = s.control := rfl

@[simp] theorem State.setMem_loader (s : State) (m : Memory) : (s.setMem m).loader = s.loader := rfl

@[simp] theorem State.setMem_trace (s : State) (m : Memory) : (s.setMem m).trace = s.trace := rfl

@[simp] theorem State.setMem_dev (s : State) (m : Memory) : (s.setMem m).dev = s.dev := rfl

/-! ## setCompare -/

@[simp] theorem State.setCompare_regs (s : State) (a b : Word) :
    (s.setCompare a b).regs = { s.regs with SW := compareSentinel a b } := rfl

@[simp] theorem State.setCompare_mem (s : State) (a b : Word) : (s.setCompare a b).mem = s.mem := rfl

@[simp] theorem State.setCompare_image (s : State) (a b : Word) : (s.setCompare a b).image = s.image := rfl

@[simp] theorem State.setCompare_control (s : State) (a b : Word) : (s.setCompare a b).control = s.control := rfl

@[simp] theorem State.setCompare_loader (s : State) (a b : Word) : (s.setCompare a b).loader = s.loader := rfl

@[simp] theorem State.setCompare_trace (s : State) (a b : Word) : (s.setCompare a b).trace = s.trace := rfl

@[simp] theorem State.setCompare_dev (s : State) (a b : Word) : (s.setCompare a b).dev = s.dev := rfl

/-! ## beginStep -/

@[simp] theorem State.beginStep_regs (s : State) : (s.beginStep).regs = s.regs := rfl

@[simp] theorem State.beginStep_mem (s : State) : (s.beginStep).mem = s.mem := rfl

@[simp] theorem State.beginStep_image (s : State) : (s.beginStep).image = s.image := rfl

@[simp] theorem State.beginStep_control (s : State) :
    (s.beginStep).control = { s.control with status := .fetching } := rfl

@[simp] theorem State.beginStep_loader (s : State) : (s.beginStep).loader = s.loader := rfl

@[simp] theorem State.beginStep_trace (s : State) : (s.beginStep).trace = { Trace.none with a0 := s.regs.PC } := rfl

@[simp] theorem State.beginStep_dev (s : State) : (s.beginStep).dev = s.dev := rfl

/-! ## advance -/

@[simp] theorem State.advance_regs (s : State) (n : Nat) :
    (s.advance n).regs = { s.regs with PC := s.regs.PC + BitVec.ofNat 24 n } := rfl

@[simp] theorem State.advance_mem (s : State) (n : Nat) : (s.advance n).mem = s.mem := rfl

@[simp] theorem State.advance_image (s : State) (n : Nat) : (s.advance n).image = s.image := rfl

@[simp] theorem State.advance_control (s : State) (n : Nat) :
    (s.advance n).control = { s.control with status := .executing } := rfl

@[simp] theorem State.advance_loader (s : State) (n : Nat) : (s.advance n).loader = s.loader := rfl

@[simp] theorem State.advance_trace (s : State) (n : Nat) :
    (s.advance n).trace = { s.trace with addr := none, unimplemented := false, error := none } := rfl

@[simp] theorem State.advance_dev (s : State) (n : Nat) : (s.advance n).dev = s.dev := rfl

/-! ## noteAddr -/

@[simp] theorem State.noteAddr_regs (s : State) (a : Word) : (s.noteAddr a).regs = s.regs := rfl

@[simp] theorem State.noteAddr_mem (s : State) (a : Word) : (s.noteAddr a).mem = s.mem := rfl

@[simp] theorem State.noteAddr_image (s : State) (a : Word) : (s.noteAddr a).image = s.image := rfl

@[simp] theorem State.noteAddr_control (s : State) (a : Word) : (s.noteAddr a).control = s.control := rfl

@[simp] theorem State.noteAddr_loader (s : State) (a : Word) : (s.noteAddr a).loader = s.loader := rfl

@[simp] theorem State.noteAddr_trace (s : State) (a : Word) :
    (s.noteAddr a).trace = { s.trace with addr := some a } := rfl

@[simp] theorem State.noteAddr_dev (s : State) (a : Word) : (s.noteAddr a).dev = s.dev := rfl

/-! ## noteUnimplemented -/

@[simp] theorem State.noteUnimplemented_regs (s : State) : (s.noteUnimplemented).regs = s.regs := rfl

@[simp] theorem State.noteUnimplemented_mem (s : State) : (s.noteUnimplemented).mem = s.mem := rfl

@[simp] theorem State.noteUnimplemented_image (s : State) : (s.noteUnimplemented).image = s.image := rfl

@[simp] theorem State.noteUnimplemented_control (s : State) : (s.noteUnimplemented).control = s.control := rfl

@[simp] theorem State.noteUnimplemented_loader (s : State) : (s.noteUnimplemented).loader = s.loader := rfl

@[simp] theorem State.noteUnimplemented_trace (s : State) :
    (s.noteUnimplemented).trace = { s.trace with unimplemented := true } := rfl

@[simp] theorem State.noteUnimplemented_dev (s : State) : (s.noteUnimplemented).dev = s.dev := rfl

/-! ## endStep -/

@[simp] theorem State.endStep_regs (s : State) (st : Status) : (s.endStep st).regs = s.regs := rfl

@[simp] theorem State.endStep_mem (s : State) (st : Status) : (s.endStep st).mem = s.mem := rfl

@[simp] theorem State.endStep_image (s : State) (st : Status) : (s.endStep st).image = s.image := rfl

@[simp] theorem State.endStep_control (s : State) (st : Status) :
    (s.endStep st).control = { s.control with status := st } := rfl

@[simp] theorem State.endStep_loader (s : State) (st : Status) : (s.endStep st).loader = s.loader := rfl

@[simp] theorem State.endStep_trace (s : State) (st : Status) :
    (s.endStep st).trace = { s.trace with status := st } := rfl

@[simp] theorem State.endStep_dev (s : State) (st : Status) : (s.endStep st).dev = s.dev := rfl

/-! ## retire -/

@[simp] theorem State.retire_regs (s : State) : (s.retire).regs = s.regs := rfl

@[simp] theorem State.retire_mem (s : State) : (s.retire).mem = s.mem := rfl

@[simp] theorem State.retire_image (s : State) : (s.retire).image = s.image := rfl

@[simp] theorem State.retire_control (s : State) : (s.retire).control = { s.control with status := .idle } := rfl

@[simp] theorem State.retire_loader (s : State) : (s.retire).loader = s.loader := rfl

@[simp] theorem State.retire_trace (s : State) : (s.retire).trace = { s.trace with status := .idle } := rfl

@[simp] theorem State.retire_dev (s : State) : (s.retire).dev = s.dev := rfl

/-! ## report -/

@[simp] theorem State.report_regs (s : State) (e : StepError) : (s.report e).regs = s.regs := rfl

@[simp] theorem State.report_mem (s : State) (e : StepError) : (s.report e).mem = s.mem := rfl

@[simp] theorem State.report_image (s : State) (e : StepError) : (s.report e).image = s.image := rfl

@[simp] theorem State.report_control (s : State) (e : StepError) :
    (s.report e).control = { s.control with status := .idle } := rfl

@[simp] theorem State.report_loader (s : State) (e : StepError) : (s.report e).loader = s.loader := rfl

@[simp] theorem State.report_trace (s : State) (e : StepError) :
    (s.report e).trace = { s.trace with error := some e, status := .idle } := rfl

@[simp] theorem State.report_dev (s : State) (e : StepError) : (s.report e).dev = s.dev := rfl

/-! ## callRead -/

@[simp] theorem State.callRead_regs (s : State) (d : Byte) : (s.callRead d).regs = s.regs := rfl

@[simp] theorem State.callRead_mem (s : State) (d : Byte) : (s.callRead d).mem = s.mem := rfl

@[simp] theorem State.callRead_image (s : State) (d : Byte) : (s.callRead d).image = s.image := rfl

@[simp] theorem State.callRead_control (s : State) (d : Byte) : (s.callRead d).control = s.control := rfl

@[simp] theorem State.callRead_loader (s : State) (d : Byte) : (s.callRead d).loader = s.loader := rfl

@[simp] theorem State.callRead_trace (s : State) (d : Byte) : (s.callRead d).trace = s.trace := rfl

@[simp] theorem State.callRead_dev (s : State) (d : Byte) : (s.callRead d).dev =
    { s.dev with
      readScript := s.dev.readScript.tail
      events := s.dev.events ++ [.read d (s.dev.readAnswer d)] } := rfl

/-! ## callWrite -/

@[simp] theorem State.callWrite_regs (s : State) (d b : Byte) : (s.callWrite d b).regs = s.regs := rfl

@[simp] theorem State.callWrite_mem (s : State) (d b : Byte) : (s.callWrite d b).mem = s.mem := rfl

@[simp] theorem State.callWrite_image (s : State) (d b : Byte) : (s.callWrite d b).image = s.image := rfl

@[simp] theorem State.callWrite_control (s : State) (d b : Byte) : (s.callWrite d b).control = s.control := rfl

@[simp] theorem State.callWrite_loader (s : State) (d b : Byte) : (s.callWrite d b).loader = s.loader := rfl

@[simp] theorem State.callWrite_trace (s : State) (d b : Byte) : (s.callWrite d b).trace = s.trace := rfl

@[simp] theorem State.callWrite_dev (s : State) (d b : Byte) : (s.callWrite d b).dev =
    { s.dev with
      writeScript := s.dev.writeScript.tail
      events := s.dev.events ++ [.write d b (s.dev.writeAnswer d b)] } := rfl

/-! ## resynced -/

@[simp] theorem State.resynced_regs (s : State) (img : Image) : (s.resynced img).regs = s.regs := rfl

@[simp] theorem State.resynced_mem (s : State) (img : Image) : (s.resynced img).mem = s.mem := rfl

@[simp] theorem State.resynced_image (s : State) (img : Image) : (s.resynced img).image = img := rfl

@[simp] theorem State.resynced_control (s : State) (img : Image) : (s.resynced img).control = s.control := rfl

@[simp] theorem State.resynced_loader (s : State) (img : Image) : (s.resynced img).loader = s.loader := rfl

@[simp] theorem State.resynced_trace (s : State) (img : Image) :
    (s.resynced img).trace = { s.trace with resynced := true } := rfl

@[simp] theorem State.resynced_dev (s : State) (img : Image) : (s.resynced img).dev = s.dev := rfl

/-! ## resetMachine -/

@[simp] theorem State.resetMachine_regs (s : State) : (s.resetMachine).regs = Regs.zero := rfl

@[simp] theorem State.resetMachine_mem (s : State) : (s.resetMachine).mem = [] := rfl

@[simp] theorem State.resetMachine_image (s : State) : (s.resetMachine).image = Image.empty := rfl

@[simp] theorem State.resetMachine_control (s : State) : (s.resetMachine).control = ⟨.idle, false, false⟩ := rfl

@[simp] theorem State.resetMachine_loader (s : State) : (s.resetMachine).loader = Loader.none := rfl

@[simp] theorem State.resetMachine_trace (s : State) : (s.resetMachine).trace = Trace.none := rfl

@[simp] theorem State.resetMachine_dev (s : State) : (s.resetMachine).dev = s.dev := rfl

/-! ## commitLoad -/

@[simp] theorem State.commitLoad_regs (s : State) (e : Word) : (s.commitLoad e).regs = { s.regs with PC := e } := rfl

@[simp] theorem State.commitLoad_mem (s : State) (e : Word) : (s.commitLoad e).mem = s.mem := rfl

@[simp] theorem State.commitLoad_image (s : State) (e : Word) :
    (s.commitLoad e).image = { s.image with entry := e } := rfl

@[simp] theorem State.commitLoad_control (s : State) (e : Word) : (s.commitLoad e).control = s.control := rfl

@[simp] theorem State.commitLoad_loader (s : State) (e : Word) : (s.commitLoad e).loader = Loader.none := rfl

@[simp] theorem State.commitLoad_trace (s : State) (e : Word) : (s.commitLoad e).trace = s.trace := rfl

@[simp] theorem State.commitLoad_dev (s : State) (e : Word) : (s.commitLoad e).dev = s.dev := rfl

/-! ## startRun -/

@[simp] theorem State.startRun_regs (s : State) : (s.startRun).regs = s.regs := rfl

@[simp] theorem State.startRun_mem (s : State) : (s.startRun).mem = s.mem := rfl

@[simp] theorem State.startRun_image (s : State) : (s.startRun).image = s.image := rfl

@[simp] theorem State.startRun_control (s : State) : (s.startRun).control = { s.control with running := true } := rfl

@[simp] theorem State.startRun_loader (s : State) : (s.startRun).loader = s.loader := rfl

@[simp] theorem State.startRun_trace (s : State) : (s.startRun).trace = s.trace := rfl

@[simp] theorem State.startRun_dev (s : State) : (s.startRun).dev = s.dev := rfl

/-! ## endRun -/

@[simp] theorem State.endRun_regs (s : State) : (s.endRun).regs = s.regs := rfl

@[simp] theorem State.endRun_mem (s : State) : (s.endRun).mem = s.mem := rfl

@[simp] theorem State.endRun_image (s : State) : (s.endRun).image = s.image := rfl

@[simp] theorem State.endRun_control (s : State) :
    (s.endRun).control = { s.control with running := false, stopRequested := false } := rfl

@[simp] theorem State.endRun_loader (s : State) : (s.endRun).loader = s.loader := rfl

@[simp] theorem State.endRun_trace (s : State) : (s.endRun).trace = s.trace := rfl

@[simp] theorem State.endRun_dev (s : State) : (s.endRun).dev = s.dev := rfl

/-! ## requestStop -/

@[simp] theorem State.requestStop_regs (s : State) : (s.requestStop).regs = s.regs := rfl

@[simp] theorem State.requestStop_mem (s : State) : (s.requestStop).mem = s.mem := rfl

@[simp] theorem State.requestStop_image (s : State) : (s.requestStop).image = s.image := rfl

@[simp] theorem State.requestStop_control (s : State) :
    (s.requestStop).control = { s.control with stopRequested := true } := rfl

@[simp] theorem State.requestStop_loader (s : State) : (s.requestStop).loader = s.loader := rfl

@[simp] theorem State.requestStop_trace (s : State) : (s.requestStop).trace = s.trace := rfl

@[simp] theorem State.requestStop_dev (s : State) : (s.requestStop).dev = s.dev := rfl

end Sys2Proof.Machine
end

