-- ==== Sys2Proof/Laws/Ops.lean ====
section
/-! SUPPORT. For each shared operation one lemma that says everything it can do, and the equations by which it is
evaluated; and every instruction as the operation with fields that it is (spec/42_interpreter_cycle.md R105). -/

namespace Sys2Proof.Machine

/-! ## Raising or going on (60_exceptions.md R240) -/

@[simp] theorem State.attempt_ok {α : Type} (s : State) (v : α) (k : α → Out) : s.attempt (.ok v) k = k v := rfl

@[simp] theorem State.attempt_error {α : Type} (s : State) (e : StepError) (k : α → Out) :
    s.attempt (.error e) k = .next (s.report e) := rfl

theorem State.attempt_cases {α : Type} {s t : State} {r : Except StepError α} {k : α → Out}
    (h : s.attempt r k = .next t) :
    (∃ v, r = .ok v ∧ k v = .next t) ∨ ∃ e, r = .error e ∧ t = s.report e := by
  cases r with
  | ok v => exact .inl ⟨v, rfl, h⟩
  | error e =>
    simp only [State.attempt_error, Host.Outcome.next.injEq] at h
    exact .inr ⟨e, rfl, h.symm⟩

theorem next_inj {s t : State} (h : (Host.Outcome.next s : Out) = .next t) : t = s := by
  simpa using h.symm

/-! ## Address and operand (41_address_resolver.md) -/

theorem resolveAddr_invalid {m : Mode} (h : m.rel = .invalid) (pc b x : Word) :
    resolveAddr m pc b x = .error .invalidBP := by
  simp [resolveAddr, h]

/-- The address in closed form (R92). -/
theorem resolveAddr_valid {m : Mode} (h : m.rel ≠ .invalid) (pc b x : Word) :
    resolveAddr m pc b x = .ok
      (BitVec.ofInt 24 m.field
        + (match m.rel with | .pcRel => pc | .baseRel => b | .direct => 0 | .invalid => 0)
        + (if m.indexed then x else 0)) := by
  cases hr : m.rel <;> cases hi : m.indexed <;>
    simp_all [resolveAddr, resolveAddr.indexBy, add24]

/-- Only b = p = 1 stops address resolution (R91, R92). -/
theorem resolveAddr_error {m : Mode} {pc b x : Word} {e : StepError} (h : resolveAddr m pc b x = .error e) :
    m.rel = .invalid ∧ e = .invalidBP := by
  by_cases hr : m.rel = .invalid
  · rw [resolveAddr_invalid hr] at h
    exact ⟨hr, by simpa using h.symm⟩
  · rw [resolveAddr_valid hr] at h
    simp at h

/-! ## The frames of the formats (42_interpreter_cycle.md R105) -/

/-- A SIC, F3 or F4 instruction whose address resolves runs its effect. -/
theorem runMem_ok {len : Nat} {m : Mode} {effect : AbsMode → Word → State → Out} {s : State} {addr : Word}
    (h : resolveAddr m (s.regs.PC + BitVec.ofNat 24 len) s.regs.B s.regs.X = .ok addr) :
    runMem len m effect s = effect m.abs addr ((s.advance len).noteAddr addr) := by
  simp [runMem, h]

/-- With b = p = 1 it raises, PC advanced (R91; 60_exceptions.md R243). -/
theorem runMem_invalid {len : Nat} {m : Mode} {effect : AbsMode → Word → State → Out} {s : State}
    (h : m.rel = .invalid) : runMem len m effect s = .next ((s.advance len).report .invalidBP) := by
  simp [runMem, resolveAddr_invalid h]

theorem runMem_cases {len : Nat} {m : Mode} {effect : AbsMode → Word → State → Out} {s t : State}
    (h : runMem len m effect s = .next t) :
    (m.rel = .invalid ∧ t = (s.advance len).report .invalidBP)
      ∨ ∃ addr, resolveAddr m (s.regs.PC + BitVec.ofNat 24 len) s.regs.B s.regs.X = .ok addr
          ∧ effect m.abs addr ((s.advance len).noteAddr addr) = .next t := by
  rcases State.attempt_cases h with ⟨addr, ha, hk⟩ | ⟨e, he, ht⟩
  · exact .inr ⟨addr, by simpa using ha, hk⟩
  · obtain ⟨hr, rfl⟩ := resolveAddr_error he
    exact .inl ⟨hr, ht⟩

/-! ## What the reads of an operand can report (20_memory.md R43, 41_address_resolver.md R93, R94) -/

theorem memReadWord_error_only {m : Memory} {a : Nat} {e : StepError} (h : memReadWord m a = .error e) :
    e = .addressError a 3 := by
  unfold memReadWord at h
  split at h <;> simp_all

theorem memReadByte_error_only {m : Memory} {a : Nat} {e : StepError} (h : memReadByte m a = .error e) :
    e = .addressError a 1 := by
  unfold memReadByte at h
  split at h <;> simp_all

/-- A word operand can report an `AddressError` of width 3 and nothing else. -/
theorem operand_error_only {m : Memory} {abs : AbsMode} {addr : Word} {e : StepError}
    (h : operand m abs addr = .error e) : ∃ a, e = .addressError a 3 := by
  unfold operand at h
  repeat' split at h
  all_goals first
    | exact ⟨_, memReadWord_error_only h⟩
    | (rename_i hp; cases h; exact ⟨_, memReadWord_error_only hp⟩)
    | cases h

/-- A store target can report an Immediate target or the `AddressError` of the pointer read. -/
theorem targetStore_error_only {m : Memory} {abs : AbsMode} {addr : Word} {e : StepError}
    (h : targetStore m abs addr = .error e) :
    (abs = .immediate ∧ e = .immediateTarget) ∨ (abs = .indirect ∧ e = .addressError addr.toNat 3) := by
  unfold targetStore at h
  split at h
  · cases h
  · cases h
  · cases h; exact .inl ⟨rfl, rfl⟩
  · exact .inr ⟨rfl, memReadWord_error_only h⟩

/-! ## Shared effects -/

theorem loadWord_cases {r : Reg} {abs : AbsMode} {addr : Word} {s t : State} (h : loadWord r abs addr s = .next t) :
    (∃ v, operand s.mem abs addr = .ok v ∧ t = (s.setReg r v).retire)
      ∨ ∃ e, operand s.mem abs addr = .error e ∧ t = s.report e := by
  rcases State.attempt_cases h with ⟨v, hv, hk⟩ | he
  · exact .inl ⟨v, hv, next_inj hk⟩
  · exact .inr he

theorem storeWord_cases {r : Reg} {abs : AbsMode} {addr : Word} {s t : State} (h : storeWord r abs addr s = .next t) :
    (∃ a m, targetStore s.mem abs addr = .ok a ∧ memWriteWord s.mem a.toNat (s.regs.get r) = .ok m
        ∧ t = (s.setMem m).retire)
      ∨ ∃ e, t = s.report e := by
  rcases State.attempt_cases h with ⟨a, ha, hk⟩ | ⟨e, -, ht⟩
  · rcases State.attempt_cases hk with ⟨m, hm, hk⟩ | ⟨e, -, ht⟩
    · exact .inl ⟨a, m, ha, hm, next_inj hk⟩
    · exact .inr ⟨e, ht⟩
  · exact .inr ⟨e, ht⟩

theorem accumulate_cases {f : Word → Word → Except StepError Word} {abs : AbsMode} {addr : Word} {s t : State}
    (h : accumulate f abs addr s = .next t) :
    (∃ v w, operand s.mem abs addr = .ok v ∧ f s.regs.A v = .ok w ∧ t = (s.setReg .A w).retire)
      ∨ ∃ e, t = s.report e := by
  rcases State.attempt_cases h with ⟨v, hv, hk⟩ | ⟨e, -, ht⟩
  · rcases State.attempt_cases hk with ⟨w, hw, hk⟩ | ⟨e, -, ht⟩
    · exact .inl ⟨v, w, hv, hw, next_inj hk⟩
    · exact .inr ⟨e, ht⟩
  · exact .inr ⟨e, ht⟩

/-- The register of a defined id (10_state.md R21). -/
theorem lookupReg_ok {id : BitVec 4} {r : Reg} (h : Reg.ofId? id = some r) : lookupReg id = .ok r := by
  simp [lookupReg, h]

/-- An undefined id is reported (10_state.md R22, R23). -/
theorem lookupReg_none {id : BitVec 4} (h : Reg.ofId? id = none) : lookupReg id = .error (.invalidRegister id) := by
  simp [lookupReg, h]

theorem lookupReg_spec {id : BitVec 4} {r : Reg} (h : lookupReg id = .ok r) : Reg.ofId? id = some r := by
  unfold lookupReg at h
  split at h <;> simp_all

theorem combineRegs_cases {f : Word → Word → Except StepError Word} {r1 r2 : BitVec 4} {s t : State}
    (h : combineRegs f r1 r2 s = .next t) :
    (∃ a b w, Reg.ofId? r1 = some a ∧ Reg.ofId? r2 = some b ∧ f (s.regs.get b) (s.regs.get a) = .ok w
        ∧ t = (s.setReg b w).retire)
      ∨ ∃ e, t = s.report e := by
  rcases State.attempt_cases h with ⟨a, ha, hk⟩ | ⟨e, -, ht⟩
  · rcases State.attempt_cases hk with ⟨b, hb, hk⟩ | ⟨e, -, ht⟩
    · rcases State.attempt_cases hk with ⟨w, hw, hk⟩ | ⟨e, -, ht⟩
      · exact .inl ⟨a, b, w, lookupReg_spec ha, lookupReg_spec hb, hw, next_inj hk⟩
      · exact .inr ⟨e, ht⟩
    · exact .inr ⟨e, ht⟩
  · exact .inr ⟨e, ht⟩

/-- RD makes exactly one call, and transfers a byte or reports (46_device_io.md R191). -/
theorem opRd_cases {abs : AbsMode} {addr : Word} {s t : State} (h : opRd abs addr s = .next t) :
    (∃ v b, operand s.mem abs addr = .ok v ∧ s.dev.readAnswer (lowByte v) = some b
        ∧ t = ((s.callRead (lowByte v)).setReg .A (withLowByte s.regs.A b)).retire)
      ∨ (∃ v, operand s.mem abs addr = .ok v ∧ s.dev.readAnswer (lowByte v) = none
        ∧ t = (s.callRead (lowByte v)).report (.deviceError (lowByte v)))
      ∨ ∃ e, operand s.mem abs addr = .error e ∧ t = s.report e := by
  rcases State.attempt_cases h with ⟨v, hv, hk⟩ | he
  · split at hk
    · rename_i b hb
      exact .inl ⟨v, b, hv, hb, next_inj hk⟩
    · rename_i hb
      exact .inr (.inl ⟨v, hv, hb, next_inj hk⟩)
  · exact .inr (.inr he)

/-- WD makes exactly one call, and completes or reports (46_device_io.md R192). -/
theorem opWd_cases {abs : AbsMode} {addr : Word} {s t : State} (h : opWd abs addr s = .next t) :
    (∃ v, operand s.mem abs addr = .ok v ∧ s.dev.writeAnswer (lowByte v) (lowByte s.regs.A) = true
        ∧ t = (s.callWrite (lowByte v) (lowByte s.regs.A)).retire)
      ∨ (∃ v, operand s.mem abs addr = .ok v ∧ s.dev.writeAnswer (lowByte v) (lowByte s.regs.A) = false
        ∧ t = (s.callWrite (lowByte v) (lowByte s.regs.A)).report (.deviceError (lowByte v)))
      ∨ ∃ e, operand s.mem abs addr = .error e ∧ t = s.report e := by
  rcases State.attempt_cases h with ⟨v, hv, hk⟩ | he
  · split at hk
    · rename_i hb
      exact .inl ⟨v, hv, hb, next_inj hk⟩
    · rename_i hb
      exact .inr (.inl ⟨v, hv, by simpa using hb, next_inj hk⟩)
  · exact .inr (.inr he)

/-! ## Every instruction as an operation with fields -/

/-- The effect of an F3/4 operation once its address is resolved; `a0` is the instruction's own address. -/
def op34Effect (a0 : Word) : Op34 → AbsMode → Word → State → Out
  | .lda => opLda | .ldx => opLdx | .ldl => opLdl | .ldb => opLdb | .lds => opLds | .ldt => opLdt | .ldch => opLdch
  | .sta => opSta | .stx => opStx | .stl => opStl | .stb => opStb | .sts => opSts | .stt => opStt
  | .stsw => opStsw | .stch => opStch
  | .add => opAdd | .sub => opSub | .mul => opMul | .div => opDiv | .and => opAnd | .or => opOr
  | .comp => opComp | .tix => opTix
  | .j => opJ a0 | .jeq => opJeq | .jgt => opJgt | .jlt => opJlt | .jsub => opJsub | .rsub => opRsub
  | .rd => opRd | .wd => opWd | .td => opTd
  | .addf => noopMem | .subf => noopMem | .mulf => noopMem | .divf => noopMem | .compf => noopMem
  | .ldf => noopMem | .stf => noopMem | .lps => noopMem | .sti => noopMem | .ssk => noopMem

theorem exec_f1 (op : Op1) (s : State) : exec op.instr s = noop (s.advance 1) := by cases op <;> rfl

/-- The effect of a format-2 operation. -/
def op2Effect (r1 r2 : BitVec 4) : Op2 → State → Out
  | .addr => combineRegs (fun a v => .ok (add24 a v)) r1 r2
  | .subr => combineRegs (fun a v => .ok (sub24 a v)) r1 r2
  | .mulr => combineRegs (fun a v => .ok (mul24 a v)) r1 r2
  | .divr => combineRegs div24 r1 r2
  | .rmo => combineRegs (fun _ v => .ok v) r1 r2
  | .compr => fun s => s.attempt (lookupReg r1) fun a => s.attempt (lookupReg r2) fun b =>
      .next (s.setCompare (s.regs.get a) (s.regs.get b)).retire
  | .clear => fun s => s.attempt (lookupReg r1) fun r => .next (s.setReg r 0).retire
  | .tixr => fun s => s.attempt (lookupReg r1) fun r =>
      .next ((s.setReg .X (add24 s.regs.X 1)).setCompare (add24 s.regs.X 1)
        ((s.setReg .X (add24 s.regs.X 1)).regs.get r)).retire
  | .shiftl => noop | .shiftr => noop | .svc => noop

theorem exec_f2 (op : Op2) (r1 r2 : BitVec 4) (s : State) :
    exec (op.instr r1 r2) s = op2Effect r1 r2 op (s.advance 2) := by cases op <;> rfl

theorem exec_sic (op : Op34) (m : SicOperand) (s : State) :
    exec (op.sicInstr m) s = runMem 3 m.mode (op34Effect s.regs.PC op) s := by cases op <;> rfl

theorem exec_f3 (op : Op34) (m : F3Operand) (s : State) :
    exec (op.f3Instr m) s = runMem 3 m.mode (op34Effect s.regs.PC op) s := by cases op <;> rfl

theorem exec_f4 (op : Op34) (m : F4Operand) (s : State) :
    exec (op.f4Instr m) s = runMem 4 m.mode (op34Effect s.regs.PC op) s := by cases op <;> rfl

/-- Every instruction is one of the five kinds. -/
theorem instr_cases (i : Instr) :
    (∃ op : Op1, i = op.instr) ∨ (∃ (op : Op2) (r1 r2 : BitVec 4), i = op.instr r1 r2)
      ∨ (∃ (op : Op34) (m : SicOperand), i = op.sicInstr m) ∨ (∃ (op : Op34) (m : F3Operand), i = op.f3Instr m)
      ∨ ∃ (op : Op34) (m : F4Operand), i = op.f4Instr m := by
  have h : Instr.ofShape i.shape = i := by cases i <;> rfl
  cases hs : i.shape with
  | f1 op => exact .inl ⟨op, by rw [← h, hs]; rfl⟩
  | f2 op r1 r2 => exact .inr (.inl ⟨op, r1, r2, by rw [← h, hs]; rfl⟩)
  | sic op m => exact .inr (.inr (.inl ⟨op, m, by rw [← h, hs]; rfl⟩))
  | f3 op m => exact .inr (.inr (.inr (.inl ⟨op, m, by rw [← h, hs]; rfl⟩)))
  | f4 op m => exact .inr (.inr (.inr (.inr ⟨op, m, by rw [← h, hs]; rfl⟩)))

end Sys2Proof.Machine
end

