-- ==== Sys2Proof/Laws/Stream.lean ====
section
/-! SUPPORT. The laws of decoding a stream of bytes (spec/30_encoding.md R66, R67): what one decode and one turn of the
stream decoder can do, and that decoding goes on over a cut in the buffer. -/

namespace Sys2Proof

theorem decode_nil : decode [] = .error .incomplete := rfl

/-- The three things a decode can answer (R61, R66, R67). -/
theorem decode_cons (b0 : Byte) (rest : List Byte) :
    (classify b0 (rest.getD 0 0) = none ∧ decode (b0 :: rest) = .error (.invalidOpcode b0))
      ∨ (∃ c, classify b0 (rest.getD 0 0) = some c ∧ rest.length + 1 < c.length
          ∧ decode (b0 :: rest) = .error .incomplete)
      ∨ ∃ c, classify b0 (rest.getD 0 0) = some c ∧ c.length ≤ rest.length + 1
          ∧ decode (b0 :: rest) = .ok
            (.ofShape (decodeOne b0 (rest.getD 0 0) (rest.getD 1 0) (rest.getD 2 0) c), rest.drop (c.length - 1)) := by
  simp only [decode]
  cases hc : classify b0 (rest.getD 0 0) with
  | none => simp
  | some c =>
    by_cases hl : rest.length + 1 < c.length
    · simp [hl]
    · simp [hl, Nat.not_lt.mp hl]

@[simp] theorem Instr.length_ofShape (sh : Shape) : (Instr.ofShape sh).length = sh.format.length := by
  simp [Instr.length]

theorem decodeOne_length (b0 b1 b2 b3 : Byte) (c : Class) : (decodeOne b0 b1 b2 b3 c).format.length = c.length := by
  cases c <;> rfl

/-- A decoded instruction takes its length from the buffer (R66). -/
theorem decode_length {buf rest : List Byte} {i : Instr} (h : decode buf = .ok (i, rest)) :
    rest = buf.drop i.length ∧ i.length ≤ buf.length := by
  cases buf with
  | nil => simp [decode_nil] at h
  | cons b0 bs =>
    rcases decode_cons b0 bs with ⟨-, he⟩ | ⟨c, -, -, he⟩ | ⟨c, -, hl, he⟩
    · simp [he] at h
    · simp [he] at h
    · rw [he] at h
      simp only [Except.ok.injEq, Prod.mk.injEq] at h
      obtain ⟨rfl, rfl⟩ := h
      have hp := c.length_pos
      simp only [Instr.length_ofShape, decodeOne_length, List.length_cons]
      refine ⟨?_, by omega⟩
      obtain ⟨k, hk⟩ : ∃ k, c.length = k + 1 := ⟨c.length - 1, by omega⟩
      simp [hk]

/-- A byte that starts no instruction is reported by the decoder, whatever follows (R61, R65). -/
theorem decode_invalid {b0 : Byte} {bs : List Byte} {b : Byte} (h : decode (b0 :: bs) = .error (.invalidOpcode b)) :
    b = b0 ∧ illegalFirstByte b0 = true := by
  rcases decode_cons b0 bs with ⟨hc, he⟩ | ⟨c, -, -, he⟩ | ⟨c, -, -, he⟩
  · rw [he] at h
    simp only [Except.error.injEq, Reject.invalidOpcode.injEq] at h
    exact ⟨h.symm, (illegalFirstByte_iff b0 _).mpr hc⟩
  · simp [he] at h
  · simp [he] at h

theorem decode_of_illegal {b0 : Byte} (h : illegalFirstByte b0 = true) (bs : List Byte) :
    decode (b0 :: bs) = .error (.invalidOpcode b0) := by
  simp only [decode, (illegalFirstByte_iff b0 (bs.getD 0 0)).mp h]

/-- An unfinished instruction is at most three bytes long (R67). -/
theorem decode_incomplete_length {buf : List Byte} (h : decode buf = .error .incomplete) : buf.length ≤ 3 := by
  cases buf with
  | nil => simp
  | cons b0 bs =>
    rcases decode_cons b0 bs with ⟨-, he⟩ | ⟨c, -, hl, -⟩ | ⟨c, -, -, he⟩
    · simp [he] at h
    · have := c.length_le
      simp only [List.length_cons]
      omega
    · simp [he] at h

/-- A decode that succeeds does not look at what follows the instruction (R66). -/
theorem decode_append {buf rest : List Byte} {i : Instr} (h : decode buf = .ok (i, rest)) (more : List Byte) :
    decode (buf ++ more) = .ok (i, rest ++ more) := by
  cases buf with
  | nil => simp [decode_nil] at h
  | cons b0 bs =>
    rcases decode_cons b0 bs with ⟨-, he⟩ | ⟨c, -, -, he⟩ | ⟨c, hc, hl, he⟩
    · simp [he] at h
    · simp [he] at h
    · rw [he] at h
      simp only [Except.ok.injEq, Prod.mk.injEq] at h
      obtain ⟨rfl, rfl⟩ := h
      have hget : ∀ k, k < bs.length → (bs ++ more).getD k 0 = bs.getD k 0 := by
        intro k hk
        simp [List.getD_eq_getElem?_getD, List.getElem?_append_left hk]
      have hc' : classify b0 ((bs ++ more).getD 0 0) = some c := by
        cases bs with
        | nil =>
          rcases classify_second b0 ([].getD 0 0) (([] ++ more).getD 0 0) c hc with h | ⟨h, -⟩
          · exact h
          · simp only [List.length_nil] at hl; omega
        | cons b1 bs => simpa using hc
      have hone : decodeOne b0 ((bs ++ more).getD 0 0) ((bs ++ more).getD 1 0) ((bs ++ more).getD 2 0) c
          = decodeOne b0 (bs.getD 0 0) (bs.getD 1 0) (bs.getD 2 0) c := by
        cases c with
        | f1 op => rfl
        | f2 op =>
          simp only [Class.length] at hl
          simp only [decodeOne, hget 0 (by omega)]
        | sic op =>
          simp only [Class.length] at hl
          simp only [decodeOne, hget 0 (by omega), hget 1 (by omega)]
        | f3 op =>
          simp only [Class.length] at hl
          simp only [decodeOne, hget 0 (by omega), hget 1 (by omega)]
        | f4 op =>
          simp only [Class.length] at hl
          simp only [decodeOne, hget 0 (by omega), hget 1 (by omega), hget 2 (by omega)]
      have hle : ¬ ((bs ++ more).length + 1 < c.length) := by simp only [List.length_append]; omega
      have hd : (bs ++ more).drop (c.length - 1) = bs.drop (c.length - 1) ++ more := by
        rw [List.drop_append_of_le_length (by omega)]
      simp only [List.cons_append, decode, hc']
      rw [if_neg hle, hone, hd]

/-! ## The stream decoder -/

/-- A bound on the entries that is large enough does not matter. -/
theorem decodeStreamAux_fuel (f : Nat) (buf : List Byte) (a : Nat) (h : buf.length ≤ f) :
    decodeStreamAux f buf a = decodeStreamAux buf.length buf a := by
  induction f using Nat.strong_induction_on generalizing buf a with
  | _ f ih =>
    cases buf with
    | nil => cases f <;> rfl
    | cons b0 bs =>
      cases f with
      | zero => simp at h
      | succ f =>
        simp only [List.length_cons] at h ⊢
        simp only [decodeStreamAux]
        cases hd : decode (b0 :: bs) with
        | error e =>
          cases e with
          | incomplete => rfl
          | invalidOpcode b => simp only [ih f (by omega) bs _ (by omega)]
        | ok p =>
          obtain ⟨i, rest⟩ := p
          obtain ⟨hrest, hle⟩ := decode_length hd
          have hpos := i.length_pos
          have hl : rest.length ≤ bs.length := by
            rw [hrest]; simp only [List.length_drop, List.length_cons]; omega
          simp only
          rw [ih f (by omega) rest _ (by omega)]
          rcases Nat.lt_or_ge bs.length f with hlt | hge
          · rw [← ih bs.length (by omega) rest _ hl]
          · have : f = bs.length := by omega
            subst this
            rw [← ih bs.length (by omega) rest _ hl]

@[simp] theorem decodeStream_nil (a : Nat) : decodeStream [] a = ([], []) := rfl

/-- The stream decoder keeps an unfinished instruction as leftover (R67). -/
theorem decodeStream_incomplete {buf : List Byte} (h : decode buf = .error .incomplete) (a : Nat) :
    decodeStream buf a = ([], buf) := by
  cases buf with
  | nil => rfl
  | cons b0 bs => simp [decodeStream, decodeStreamAux, h]

/-- The stream decoder makes a byte that starts no instruction an Unknown/data entry (R67). -/
theorem decodeStream_unknown {b0 : Byte} (h : illegalFirstByte b0 = true) (bs : List Byte) (a : Nat) :
    decodeStream (b0 :: bs) a = ((a, .unknown b0) :: (decodeStream bs (a + 1)).1, (decodeStream bs (a + 1)).2) := by
  simp only [decodeStream, List.length_cons, decodeStreamAux, decode_of_illegal h]

/-- The stream decoder emits a whole instruction and goes on behind it (R67). -/
theorem decodeStream_ins {buf rest : List Byte} {i : Instr} (h : decode buf = .ok (i, rest)) (a : Nat) :
    decodeStream buf a
      = ((a, .ins i) :: (decodeStream rest (a + i.length)).1, (decodeStream rest (a + i.length)).2) := by
  cases buf with
  | nil => simp [decode_nil] at h
  | cons b0 bs =>
    obtain ⟨hrest, hle⟩ := decode_length h
    have hpos := i.length_pos
    have hl : rest.length ≤ bs.length := by
      rw [hrest]; simp only [List.length_drop, List.length_cons]; omega
    simp only [decodeStream, List.length_cons, decodeStreamAux, h]
    rw [decodeStreamAux_fuel _ _ _ hl]

/-- Induction over a stream of bytes as the decoder takes it apart. -/
theorem decodeStream_induction {P : List Byte → Prop} (incomplete : ∀ buf, decode buf = .error .incomplete → P buf)
    (unknown : ∀ b bs, illegalFirstByte b = true → P bs → P (b :: bs))
    (ins : ∀ buf i rest, decode buf = .ok (i, rest) → P rest → P buf) (buf : List Byte) : P buf := by
  induction hn : buf.length using Nat.strong_induction_on generalizing buf with
  | _ n ih =>
    cases buf with
    | nil => exact incomplete [] rfl
    | cons b0 bs =>
      cases hd : decode (b0 :: bs) with
      | error e =>
        cases e with
        | incomplete => exact incomplete _ hd
        | invalidOpcode b =>
          exact unknown b0 bs (decode_invalid hd).2 (ih bs.length (by rw [← hn]; simp) bs rfl)
      | ok p =>
        obtain ⟨i, rest⟩ := p
        obtain ⟨hrest, hle⟩ := decode_length hd
        have hpos := i.length_pos
        refine ins _ i rest hd (ih rest.length ?_ rest rfl)
        rw [hrest, ← hn]
        simp only [List.length_drop, List.length_cons]
        omega

/-- A cut in the buffer does not matter when the leftover of the first part goes before the second (R67, R228). -/
theorem decodeStream_append (p q : List Byte) (a : Nat) :
    decodeStream (p ++ q) a =
      ((decodeStream p a).1
          ++ (decodeStream ((decodeStream p a).2 ++ q) (a + (p.length - (decodeStream p a).2.length))).1,
        (decodeStream ((decodeStream p a).2 ++ q) (a + (p.length - (decodeStream p a).2.length))).2)
      ∧ (decodeStream p a).2.length ≤ p.length := by
  induction p using decodeStream_induction generalizing a with
  | incomplete buf h => simp [decodeStream_incomplete h]
  | unknown b bs h ih =>
    obtain ⟨ih, hl⟩ := ih (a + 1)
    simp only [List.cons_append, decodeStream_unknown h, ih, List.length_cons]
    have e : a + 1 + (bs.length - (decodeStream bs (a + 1)).2.length)
        = a + (bs.length + 1 - (decodeStream bs (a + 1)).2.length) := by omega
    rw [e]
    exact ⟨rfl, by omega⟩
  | ins buf i rest h ih =>
    obtain ⟨ih, hl⟩ := ih (a + i.length)
    obtain ⟨hrest, hle⟩ := decode_length h
    have hlen : rest.length = buf.length - i.length := by rw [hrest]; simp
    simp only [decodeStream_ins h, decodeStream_ins (decode_append h q), ih]
    have e : a + i.length + (rest.length - (decodeStream rest (a + i.length)).2.length)
        = a + (buf.length - (decodeStream rest (a + i.length)).2.length) := by omega
    rw [e]
    exact ⟨rfl, by omega⟩

/-- Every entry of a stream stands inside the bytes it was decoded from. -/
theorem decodeStream_inside (buf : List Byte) (a : Nat) :
    ∀ p ∈ (decodeStream buf a).1, a ≤ p.1 ∧ p.1 + p.2.length ≤ a + buf.length := by
  induction buf using decodeStream_induction generalizing a with
  | incomplete buf h => simp [decodeStream_incomplete h]
  | unknown b bs h ih =>
    intro p hp
    rw [decodeStream_unknown h] at hp
    rcases List.mem_cons.mp hp with rfl | hp
    · simp [Entry.length, Entry.format, Format.length]
    · have := ih (a + 1) p hp
      simp only [List.length_cons]
      omega
  | ins buf i rest h ih =>
    intro p hp
    obtain ⟨hrest, hle⟩ := decode_length h
    have hlen : rest.length = buf.length - i.length := by rw [hrest]; simp
    rw [decodeStream_ins h] at hp
    rcases List.mem_cons.mp hp with rfl | hp
    · exact ⟨le_refl _, by simpa [Entry.length, Entry.format, Instr.length] using hle⟩
    · have := ih (a + i.length) p hp
      omega

end Sys2Proof
end

