-- ==== Sys2Proof/Laws/Fetch.lean ====
section
/-! SUPPORT. The laws of fetching (spec/42_interpreter_cycle.md section 2): what memory decodes to, what a resync gives, and
everything a Step can do. -/

namespace Sys2Proof.Machine

/-! ## What memory holds at an address -/

theorem Memory.getBytes_cons {m : Memory} {a n : Nat} (h : 0 < n) :
    m.getBytes a n = m.get a :: m.getBytes (a + 1) (n - 1) := by
  obtain ⟨k, rfl⟩ : ∃ k, n = k + 1 := ⟨n - 1, by omega⟩
  rfl

theorem Memory.getBytes_getD (m : Memory) (a n k : Nat) (h : k < n) : (m.getBytes a n).getD k 0 = m.get (a + k) := by
  induction n generalizing a k with
  | zero => omega
  | succ n ih =>
    cases k with
    | zero => rfl
    | succ k =>
      simp only [Memory.getBytes, List.getD_cons_succ]
      rw [ih (a + 1) k (by omega)]
      congr 1
      omega

theorem Memory.getBytes_drop (m : Memory) (a n k : Nat) : (m.getBytes a n).drop k = m.getBytes (a + k) (n - k) := by
  induction k generalizing a n with
  | zero => simp
  | succ k ih =>
    cases n with
    | zero => simp
    | succ n =>
      simp only [Memory.getBytes, List.drop_succ_cons, ih]
      congr 1 <;> omega

theorem Memory.getBytes_congr {m m' : Memory} {a n : Nat} (h : ∀ b, a ≤ b → b < a + n → m'.get b = m.get b) :
    m'.getBytes a n = m.getBytes a n := by
  induction n generalizing a with
  | zero => rfl
  | succ n ih =>
    simp only [Memory.getBytes]
    rw [h a (le_refl _) (by omega), ih fun b h1 h2 => h b (by omega) (by omega)]

/-- The three things the live decode can answer for a byte of memory (42_interpreter_cycle.md R107). -/
theorem liveDecode_unknown {m : Memory} {a : Nat} (ha : a < Config.memSize) (h : illegalFirstByte (m.get a) = true) :
    liveDecode m a = .ok (.unknown (m.get a)) := by
  have hc := (illegalFirstByte_iff (m.get a) (m.get (a + 1))).mp h
  have hn : needsSecondByte (m.get a) = false := by
    simp only [needsSecondByte, (illegalFirstByte_iff (m.get a) 0).mp h]
  simp [liveDecode, memReadByte_ok ha, hn, hc]

theorem liveDecode_ins {m : Memory} {a : Nat} {c : Class} (hc : classify (m.get a) (m.get (a + 1)) = some c)
    (ha : a + c.length ≤ Config.memSize) :
    liveDecode m a
      = .ok (.ins (.ofShape (decodeOne (m.get a) (m.get (a + 1)) (m.get (a + 2)) (m.get (a + 3)) c))) := by
  have hp := c.length_pos
  have h1 : (needsSecondByte (m.get a) && !inRange (a + 1) 1) = false := by
    cases hn : needsSecondByte (m.get a) with
    | false => rfl
    | true =>
      have h3 : 3 ≤ c.length := by
        rcases classify_second _ _ 0 c hc with h | ⟨h, -⟩
        · simp only [needsSecondByte, h] at hn
          cases c <;> simp_all [Class.length]
        · exact h
      simp [inRange]
      omega
  simp [liveDecode, memReadByte_ok (show a < Config.memSize by omega), h1, hc, ha]

/-- Everything the live decode can answer (42_interpreter_cycle.md R107). -/
theorem liveDecode_cases {m : Memory} {a : Nat} {e : Entry} (h : liveDecode m a = .ok e) :
    (a < Config.memSize ∧ illegalFirstByte (m.get a) = true ∧ e = .unknown (m.get a))
      ∨ ∃ c, classify (m.get a) (m.get (a + 1)) = some c ∧ a + c.length ≤ Config.memSize
          ∧ e = .ins (.ofShape (decodeOne (m.get a) (m.get (a + 1)) (m.get (a + 2)) (m.get (a + 3)) c)) := by
  by_cases ha : a < Config.memSize
  · simp only [liveDecode, memReadByte_ok ha] at h
    split at h
    · simp at h
    · cases hc : classify (m.get a) (m.get (a + 1)) with
      | none =>
        rw [hc] at h
        exact .inl ⟨ha, (illegalFirstByte_iff _ _).mpr hc, by simpa using h.symm⟩
      | some c =>
        rw [hc] at h
        simp only at h
        split at h
        · rename_i hr
          exact .inr ⟨c, rfl, by simpa using hr, by simpa using h.symm⟩
        · simp at h
  · simp [liveDecode, memReadByte_error ha] at h

/-- A live decode lies inside memory. -/
theorem liveDecode_inside {m : Memory} {a : Nat} {e : Entry} (h : liveDecode m a = .ok e) :
    a + e.length ≤ Config.memSize := by
  rcases liveDecode_cases h with ⟨ha, -, rfl⟩ | ⟨c, -, ha, rfl⟩
  · exact ha
  · have : (Entry.ins (.ofShape (decodeOne (m.get a) (m.get (a + 1)) (m.get (a + 2)) (m.get (a + 3)) c))).length
        = c.length := by
      simp [Entry.length, Entry.format, decodeOne_length]
    rw [this]
    exact ha

/-- A buffer of memory bytes that decodes says what the live decode answers. -/
theorem liveDecode_of_decode {m : Memory} {a n : Nat} {i : Instr} {rest : List Byte}
    (h : decode (m.getBytes a n) = .ok (i, rest)) (ha : a + n ≤ Config.memSize) : liveDecode m a = .ok (.ins i) := by
  cases n with
  | zero => simp [decode_nil] at h
  | succ n =>
    rw [Memory.getBytes] at h
    have hget : ∀ k, k < n → (m.getBytes (a + 1) n).getD k 0 = m.get (a + 1 + k) :=
      fun k hk => Memory.getBytes_getD m (a + 1) n k hk
    rcases decode_cons (m.get a) (m.getBytes (a + 1) n) with ⟨-, he⟩ | ⟨c, -, -, he⟩ | ⟨c, hc, hl, he⟩
    · simp [he] at h
    · simp [he] at h
    · rw [he] at h
      simp only [Except.ok.injEq, Prod.mk.injEq] at h
      obtain ⟨rfl, -⟩ := h
      rw [Memory.getBytes_length] at hl
      have hc' : classify (m.get a) (m.get (a + 1)) = some c := by
        rcases Nat.eq_zero_or_pos n with rfl | hn
        · rcases classify_second _ _ (m.get (a + 1)) c hc with h | ⟨h, -⟩
          · exact h
          · omega
        · rw [hget 0 hn] at hc
          exact hc
      rw [liveDecode_ins hc' (by omega)]
      congr 3
      cases c with
      | f1 op => rfl
      | f2 op =>
        simp only [Class.length] at hl
        simp only [decodeOne, hget 0 (by omega), Nat.add_zero]
      | sic op =>
        simp only [Class.length] at hl
        simp only [decodeOne, hget 0 (by omega), hget 1 (by omega), Nat.add_zero, Nat.add_assoc, Nat.reduceAdd]
      | f3 op =>
        simp only [Class.length] at hl
        simp only [decodeOne, hget 0 (by omega), hget 1 (by omega), Nat.add_zero, Nat.add_assoc, Nat.reduceAdd]
      | f4 op =>
        simp only [Class.length] at hl
        simp only [decodeOne, hget 0 (by omega), hget 1 (by omega), hget 2 (by omega), Nat.add_zero, Nat.add_assoc,
          Nat.reduceAdd]

/-- The live decode of an entry depends on the bytes of the entry alone (42_interpreter_cycle.md R115). -/
theorem liveDecode_congr {m m' : Memory} {a : Nat} {e : Entry} (h : liveDecode m a = .ok e)
    (hm : ∀ b, a ≤ b → b < a + e.length → m'.get b = m.get b) : liveDecode m' a = .ok e := by
  rcases liveDecode_cases h with ⟨ha, hi, rfl⟩ | ⟨c, hc, ha, rfl⟩
  · have h0 : m'.get a = m.get a := hm a (le_refl _) (by simp [Entry.length, Entry.format, Format.length])
    rw [← h0] at hi ⊢
    exact liveDecode_unknown ha hi
  · have hlen : (Entry.ins (.ofShape (decodeOne (m.get a) (m.get (a + 1)) (m.get (a + 2)) (m.get (a + 3)) c))).length
        = c.length := by
      simp [Entry.length, Entry.format, decodeOne_length]
    rw [hlen] at hm
    have hp := c.length_pos
    have h0 : m'.get a = m.get a := hm a (le_refl _) (by omega)
    have hc' : classify (m'.get a) (m'.get (a + 1)) = some c := by
      rw [h0]
      rcases classify_second _ _ (m'.get (a + 1)) c hc with h | ⟨h, -⟩
      · exact h
      · rw [hm (a + 1) (by omega) (by omega)]
        exact hc
    rw [liveDecode_ins hc' ha]
    congr 3
    cases c with
    | f1 op => rfl
    | f2 op =>
      simp only [Class.length] at hm
      simp only [decodeOne, hm (a + 1) (by omega) (by omega)]
    | sic op =>
      simp only [Class.length] at hm
      simp only [decodeOne, hm (a + 1) (by omega) (by omega), hm (a + 2) (by omega) (by omega)]
    | f3 op =>
      simp only [Class.length] at hm
      simp only [decodeOne, h0, hm (a + 1) (by omega) (by omega), hm (a + 2) (by omega) (by omega)]
    | f4 op =>
      simp only [Class.length] at hm
      simp only [decodeOne, h0, hm (a + 1) (by omega) (by omega), hm (a + 2) (by omega) (by omega),
        hm (a + 3) (by omega) (by omega)]

/-! ## Resync -/

/-- Every entry decoded from a stretch of memory is what the live decode answers at its address. -/
theorem decodeStream_live (m : Memory) (a n : Nat) (ha : a + n ≤ Config.memSize) :
    ∀ p ∈ (decodeStream (m.getBytes a n) a).1, liveDecode m p.1 = .ok p.2 := by
  generalize hb : m.getBytes a n = buf
  induction buf using decodeStream_induction generalizing a n with
  | incomplete buf h => simp [decodeStream_incomplete h]
  | unknown b bs h ih =>
    have hlen : n = bs.length + 1 := by
      have := Memory.getBytes_length m a n
      rw [hb] at this; simpa using this.symm
    subst hlen
    rw [Memory.getBytes] at hb
    simp only [List.cons.injEq] at hb
    intro p hp
    rw [decodeStream_unknown h] at hp
    rcases List.mem_cons.mp hp with rfl | hp
    · rw [← hb.1] at h ⊢
      exact liveDecode_unknown (by omega) h
    · exact ih (a + 1) bs.length (by omega) hb.2 p hp
  | ins buf i rest h ih =>
    intro p hp
    rw [decodeStream_ins h] at hp
    rcases List.mem_cons.mp hp with rfl | hp
    · rw [← hb] at h
      exact liveDecode_of_decode h ha
    · obtain ⟨hrest, hle⟩ := decode_length h
      have hlen : buf.length = n := by rw [← hb]; simp
      refine ih (a + i.length) (n - i.length) (by omega) ?_ p hp
      rw [hrest, ← hb, Memory.getBytes_drop]

/-- What the rest of a resync gives (42_interpreter_cycle.md R107). -/
theorem tailEntries_cases {m : Memory} {last : Option Nat} {start : Nat} {es : Entries}
    (h : tailEntries m last start = .ok es) :
    es = [] ∨ ∃ l, last = some l ∧ start ≤ l ∧ l < Config.memSize
      ∧ es = (decodeStream (m.getBytes start (l - start + 1)) start).1 := by
  unfold tailEntries at h
  split at h
  · exact .inl (by simpa using h.symm)
  · rename_i l
    split at h
    · rename_i hl
      simp only [memReadBytes] at h
      split at h
      · rename_i bytes hr
        split at hr
        · rename_i hin
          simp only [Except.ok.injEq] at hr h
          have : start + (l - start + 1) ≤ Config.memSize := by simpa using hin
          exact .inr ⟨l, rfl, hl, by omega, by rw [← h, ← hr]⟩
        · simp at hr
      · simp at h
    · exact .inl (by simpa using h.symm)

theorem tailEntries_ok {m : Memory} {last : Option Nat} (h : ∀ l, last = some l → l < Config.memSize) (start : Nat) :
    ∃ es, tailEntries m last start = .ok es := by
  unfold tailEntries
  split
  · exact ⟨_, rfl⟩
  · rename_i l
    have := h l rfl
    split
    · have hr : inRange start (l - start + 1) = true := by simp; omega
      simp only [memReadBytes, hr, if_true]
      exact ⟨_, rfl⟩
    · exact ⟨_, rfl⟩

/-- The entries of a resync's rest: live, and from `start` on inside memory. -/
theorem tailEntries_spec {m : Memory} {last : Option Nat} {start : Nat} {es : Entries}
    (h : tailEntries m last start = .ok es) :
    ∀ p ∈ es, start ≤ p.1 ∧ p.1 < Config.memSize ∧ liveDecode m p.1 = .ok p.2 := by
  rcases tailEntries_cases h with rfl | ⟨l, -, hl, hm, rfl⟩
  · simp
  · intro p hp
    have h1 := decodeStream_inside _ _ p hp
    have h2 := p.2.length_pos
    rw [Memory.getBytes_length] at h1
    exact ⟨h1.1, by omega, decodeStream_live m start _ (by omega) p hp⟩

/-- The entries of a stream stand in rising order. -/
theorem decodeStream_wf (buf : List Byte) (a : Nat) (h : a + buf.length ≤ Config.memSize) :
    Entries.wf (decodeStream buf a).1 = true := by
  induction buf using decodeStream_induction generalizing a with
  | incomplete buf hd => rw [decodeStream_incomplete hd]; rfl
  | unknown b bs hd ih =>
    simp only [List.length_cons] at h
    rw [decodeStream_unknown hd]
    refine (Entries.wf_cons _ _ _).mpr ⟨by omega, ih (a + 1) (by omega), fun p hp => ?_⟩
    have := (decodeStream_inside bs (a + 1) p hp).1
    omega
  | ins buf i rest hd ih =>
    obtain ⟨hrest, hle⟩ := decode_length hd
    have hlen : rest.length = buf.length - i.length := by rw [hrest]; simp
    have hp := i.length_pos
    rw [decodeStream_ins hd]
    refine (Entries.wf_cons _ _ _).mpr ⟨by omega, ih (a + i.length) (by omega), fun p hp => ?_⟩
    have := (decodeStream_inside rest (a + i.length) p hp).1
    omega

/-- Everything a resync gives (42_interpreter_cycle.md R107). -/
theorem resync_spec {m : Memory} {img img' : Image} {a : Nat} {e : Entry} (h : resync m img a = .ok (e, img')) :
    liveDecode m a = .ok e ∧ ∃ more, tailEntries m img.lastByteAddr (a + e.length) = .ok more
      ∧ img' = { img with entries := img.entries.below a ++ (a, e) :: more } := by
  unfold resync at h
  split at h
  · simp at h
  · rename_i first hf
    split at h
    · simp at h
    · rename_i more hm
      simp only [Except.ok.injEq, Prod.mk.injEq] at h
      obtain ⟨rfl, rfl⟩ := h
      exact ⟨hf, more, hm, rfl⟩

/-- A resync finds its entry again (42_interpreter_cycle.md R106). -/
theorem resync_lookup {m : Memory} {img img' : Image} {a : Nat} {e : Entry} (h : resync m img a = .ok (e, img')) :
    img'.entries.lookup a = some e := by
  obtain ⟨-, more, -, rfl⟩ := resync_spec h
  simp [Entries.lookup_append, Entries.lookup_below, Entries.lookup]

/-- A resync keeps the canonical form of the entries. -/
theorem resync_wf {m : Memory} {img img' : Image} {a : Nat} {e : Entry} (hw : img.entries.wf = true)
    (h : resync m img a = .ok (e, img')) : img'.entries.wf = true := by
  obtain ⟨hl, more, hm, rfl⟩ := resync_spec h
  have hin := liveDecode_inside hl
  have hpos := e.length_pos
  have hmore : Entries.wf more = true := by
    rcases tailEntries_cases hm with rfl | ⟨l, -, h1, h2, rfl⟩
    · rfl
    · exact decodeStream_wf _ _ (by rw [Memory.getBytes_length]; omega)
  refine Entries.wf_append (Entries.wf_below hw a) ?_ ?_
  · refine (Entries.wf_cons _ _ _).mpr ⟨by omega, hmore, fun p hp => ?_⟩
    have := (tailEntries_spec hm p hp).1
    omega
  · intro p hp q hq
    have h1 := (Entries.mem_below hp).1
    rcases List.mem_cons.mp hq with rfl | hq
    · exact h1
    · have := (tailEntries_spec hm q hq).1
      omega

/-- A fetch that finds no entry fails for want of memory bytes only (42_interpreter_cycle.md R107; log entry 13). -/
theorem resync_error {m : Memory} {img : Image} {a : Nat} {e : StepError} (h : resync m img a = .error e) :
    ∃ addr width, e = .addressError addr width := by
  have hread : ∀ b x, memReadByte m b = .error x → ∃ addr width, x = .addressError addr width := by
    intro b x hx
    by_cases hb : b < Config.memSize
    · simp [memReadByte_ok hb] at hx
    · rw [memReadByte_error hb] at hx
      exact ⟨_, _, by simpa using hx.symm⟩
  unfold resync at h
  split at h
  · rename_i x hl
    simp only [Except.error.injEq] at h
    subst h
    unfold liveDecode at hl
    split at hl
    · rename_i y hy
      simp only [Except.error.injEq] at hl
      subst hl
      exact hread _ _ hy
    · split at hl
      · exact ⟨_, _, by simpa using hl.symm⟩
      · split at hl
        · simp at hl
        · split at hl
          · simp at hl
          · exact ⟨_, _, by simpa using hl.symm⟩
  · split at h
    · rename_i x ht
      simp only [Except.error.injEq] at h
      subst h
      unfold tailEntries at ht
      split at ht
      · simp at ht
      · split at ht
        · split at ht
          · simp at ht
          · rename_i y hy
            simp only [Except.error.injEq] at ht
            subst ht
            unfold memReadBytes at hy
            split at hy
            · simp at hy
            · exact ⟨_, _, by simpa using hy.symm⟩
        · simp at ht
    · simp at h

/-! ## The Step -/

/-- Everything a fetch can do (42_interpreter_cycle.md R106 to R108). -/
theorem fetch_cases (s : State) :
    (∃ e, s.image.entries.lookup s.regs.PC.toNat = some e ∧ fetch s = s.beginStep.deliver e)
      ∨ (∃ e img, s.image.entries.lookup s.regs.PC.toNat = none
          ∧ resync s.mem s.image s.regs.PC.toNat = .ok (e, img) ∧ fetch s = (s.beginStep.resynced img).deliver e)
      ∨ ∃ err, s.image.entries.lookup s.regs.PC.toNat = none
          ∧ resync s.mem s.image s.regs.PC.toNat = .error err ∧ fetch s = .failed err s.beginStep := by
  unfold fetch
  cases h : s.image.entries.lookup s.regs.PC.toNat with
  | some e => exact .inl ⟨e, rfl, rfl⟩
  | none =>
    cases hr : resync s.mem s.image s.regs.PC.toNat with
    | ok p => obtain ⟨e, img⟩ := p; exact .inr (.inl ⟨e, img, rfl, rfl, rfl⟩)
    | error err => exact .inr (.inr ⟨err, rfl, rfl, rfl⟩)

/-- A fetch that hands out an instruction touches nothing but the image, the status and the trace, and the
instruction is in the image. -/
theorem fetch_got {s s' : State} {i : Instr} (h : fetch s = .got i s') :
    s'.regs = s.regs ∧ s'.mem = s.mem ∧ s'.loader = s.loader ∧ s'.dev = s.dev
      ∧ s'.control = { s.control with status := .fetching } ∧ s'.trace.entry = some (.ins i)
      ∧ s'.image.entries.lookup s.regs.PC.toNat = some (.ins i)
      ∧ ((s'.image = s.image ∧ s'.trace.resynced = false)
        ∨ (s.image.entries.lookup s.regs.PC.toNat = none ∧ s'.trace.resynced = true
          ∧ resync s.mem s.image s.regs.PC.toNat = .ok (.ins i, s'.image))) := by
  rcases fetch_cases s with ⟨e, hl, hf⟩ | ⟨e, img, hl, hr, hf⟩ | ⟨err, hl, hr, hf⟩
  · rw [hf] at h
    cases e with
    | unknown b => simp [State.deliver] at h
    | ins j =>
      simp only [State.deliver, Fetched.got.injEq] at h
      obtain ⟨rfl, rfl⟩ := h
      exact ⟨rfl, rfl, rfl, rfl, rfl, rfl, hl, .inl ⟨rfl, rfl⟩⟩
  · rw [hf] at h
    cases e with
    | unknown b => simp [State.deliver] at h
    | ins j =>
      simp only [State.deliver, Fetched.got.injEq] at h
      obtain ⟨rfl, rfl⟩ := h
      exact ⟨rfl, rfl, rfl, rfl, rfl, rfl, resync_lookup hr, .inr ⟨hl, rfl, hr⟩⟩
  · rw [hf] at h
    simp at h

/-- A fetch that fails touches nothing but the image, the status and the trace, and a failing entry is in the image. -/
theorem fetch_failed {s s' : State} {e : StepError} (h : fetch s = .failed e s') :
    s'.regs = s.regs ∧ s'.mem = s.mem ∧ s'.loader = s.loader ∧ s'.dev = s.dev
      ∧ s'.control = { s.control with status := .fetching }
      ∧ ((∃ b, e = .invalidOpcode b ∧ s'.image.entries.lookup s.regs.PC.toNat = some (.unknown b))
        ∨ (s.image.entries.lookup s.regs.PC.toNat = none ∧ s'.image = s.image
          ∧ resync s.mem s.image s.regs.PC.toNat = .error e))
      ∧ (s'.image = s.image ∨ s.image.entries.lookup s.regs.PC.toNat = none ∧ s'.trace.resynced = true
          ∧ ∃ b, resync s.mem s.image s.regs.PC.toNat = .ok (.unknown b, s'.image)) := by
  rcases fetch_cases s with ⟨x, hl, hf⟩ | ⟨x, img, hl, hr, hf⟩ | ⟨err, hl, hr, hf⟩
  · rw [hf] at h
    cases x with
    | ins j => simp [State.deliver] at h
    | unknown b =>
      simp only [State.deliver, Fetched.failed.injEq] at h
      obtain ⟨rfl, rfl⟩ := h
      exact ⟨rfl, rfl, rfl, rfl, rfl, .inl ⟨b, rfl, hl⟩, .inl rfl⟩
  · rw [hf] at h
    cases x with
    | ins j => simp [State.deliver] at h
    | unknown b =>
      simp only [State.deliver, Fetched.failed.injEq] at h
      obtain ⟨rfl, rfl⟩ := h
      exact ⟨rfl, rfl, rfl, rfl, rfl, .inl ⟨b, rfl, resync_lookup hr⟩, .inr ⟨hl, rfl, b, hr⟩⟩
  · rw [hf] at h
    simp only [Fetched.failed.injEq] at h
    obtain ⟨rfl, rfl⟩ := h
    exact ⟨rfl, rfl, rfl, rfl, rfl, .inr ⟨hl, rfl, hr⟩, .inl rfl⟩

/-- Everything a Step can do (42_interpreter_cycle.md R105). -/
theorem step_cases {s t : State} (h : step s = .next t) :
    (∃ i s', fetch s = .got i s' ∧ exec i s' = .next t) ∨ ∃ e s', fetch s = .failed e s' ∧ t = s'.report e := by
  unfold step at h
  split at h
  · rename_i i s' hf
    exact .inl ⟨i, s', hf, h⟩
  · rename_i e s' hf
    exact .inr ⟨e, s', hf, next_inj h⟩

/-- With an entry at PC the fetch hands it out, whatever memory holds (42_interpreter_cycle.md R106). -/
theorem fetch_hit {s : State} {e : Entry} (h : s.image.entries.lookup s.regs.PC.toNat = some e) :
    fetch s = s.beginStep.deliver e := by
  simp [fetch, h]

end Sys2Proof.Machine
end

