-- ==== Sys2Proof/Laws/Load.lean ====
section
/-! SUPPORT. The laws of loading (spec/48_object_format.md Parts B and D): what one record and one line of an assembled
program can do, and that a load looks at nothing of the machine before it; the device port goes through untouched. -/

namespace Sys2Proof.Machine

/-! ## Records and lines -/

/-- The four things an accepted record can do (R227 to R232). -/
theorem readRecord_cases {line : Nat} {rd rd' : Reader} {r : Record} (h : readRecord line rd r = .ok rd') :
    ((∃ name start len, r = .header name start len) ∧ rd.inUnit = false
        ∧ rd' = { rd with inUnit := true, anyRecord := true })
      ∨ (∃ start payload, r = .text start payload ∧ rd.inUnit = true ∧ start + payload.length ≤ Config.memSize
        ∧ (rd.core.loader.left = [] ∨ rd.core.loader.expect = some start)
        ∧ rd' = { rd with core := loadText rd.core start payload })
      ∨ ((∃ addr k, r = .modification addr k) ∧ rd.inUnit = true ∧ rd' = rd)
      ∨ ∃ e, r = .ending e ∧ rd.inUnit = true
        ∧ rd' = ⟨{ rd.core with loader := .none }, false, true, some (rd.entry.getD e)⟩ := by
  cases r <;> simp only [readRecord] at h <;> (repeat' split at h) <;> simp_all [inRange]
  all_goals first
    | exact h.symm
    | (rename_i hc; exact (Classical.em (rd.core.loader.left = [])).imp id hc)

/-- An accepted line of an assembled program puts its bytes into memory and its entries into the image (R239). -/
theorem loadItems_cons {s t : State} {l : AsmLine} {rest : List AsmLine} (h : loadItems s (l :: rest) = .ok t) :
    l.addr + l.item.bytes.length ≤ Config.memSize
      ∧ loadItems
          { s with
            mem := s.mem.setBytes l.addr l.item.bytes
            image := { s.image with
              entries := s.image.entries.insertAll (l.item.entries l.addr)
              lastByteAddr := highestByte s.image.lastByteAddr l.addr l.item.bytes } } rest = .ok t := by
  simp only [loadItems, memWriteBytes, inRange] at h
  by_cases hr : l.addr + l.item.bytes.length ≤ Config.memSize
  · simp only [hr, decide_true, if_true] at h
    exact ⟨hr, h⟩
  · simp [hr] at h

/-! ## The device port is not looked at (10_state.md R37; log entry 2) -/

theorem loadItems_dev (d : DevicePort) (ls : List AsmLine) {s t : State} (h : loadItems s ls = .ok t) :
    loadItems { s with dev := d } ls = .ok { t with dev := d } := by
  induction ls generalizing s with
  | nil => simp only [loadItems, Except.ok.injEq] at h ⊢; rw [h]
  | cons l rest ih =>
    simp only [loadItems] at h ⊢
    split at h
    · cases h
    · exact ih h

theorem readRecord_dev (d : DevicePort) {line : Nat} {rd rd' : Reader} {r : Record}
    (h : readRecord line rd r = .ok rd') :
    readRecord line { rd with core := { rd.core with dev := d } } r
      = .ok { rd' with core := { rd'.core with dev := d } } := by
  cases r <;> simp only [readRecord] at h ⊢ <;> (repeat' split at h) <;> simp_all [inRange] <;> subst h <;>
    simp_all [loadText]

theorem readLines_dev (d : DevicePort) (ls : List Text) {line : Nat} {rd rd' : Reader}
    (h : readLines line rd ls = .ok rd') :
    readLines line { rd with core := { rd.core with dev := d } } ls
      = .ok { rd' with core := { rd'.core with dev := d } } := by
  induction ls generalizing line rd with
  | nil => simp only [readLines, Except.ok.injEq] at h ⊢; rw [h]
  | cons t rest ih =>
    simp only [readLines] at h ⊢
    split at h
    · rename_i ht; simp only [ht, if_true]; exact ih h
    · rename_i ht
      simp only [ht, if_false]
      split at h
      · cases h
      · split at h
        · rename_i hr; rw [readRecord_dev d hr]; exact ih h
        · cases h

/-! ## Flags of assembled instructions (R236) -/

/-- What a line does to the flagged addresses: one it makes an entry at takes the line's flag, the others keep theirs. -/
theorem mem_flagLine {flagged : List Nat} {l : AsmLine} {a : Nat} :
    a ∈ flagLine flagged l ↔
      (a ∈ flagged ∧ ∀ q ∈ l.item.entries l.addr, q.1 ≠ a) ∨ (l.item.fromSymbol = true ∧ a = l.addr) := by
  cases hf : l.item.fromSymbol <;> simp [flagLine, hf]

end Sys2Proof.Machine
end

