-- ==== Sys2Proof/Laws/PerInstr.lean ====
section
/-! SUPPORT. A law per instruction (LAWS.json): ShapeRoundTrip says that an instruction is determined by its operation, its
format and its fields, so that a statement about the shape (spec/10_state.md R35) is one about the instruction. -/

/-- The instruction with the operation and fields of `i` is `i`. -/
def Sys2Proof.Laws.ShapeRoundTrip.Statement (i : Sys2Proof.Instr) : Prop := Sys2Proof.Instr.ofShape i.shape = i

theorem Sys2Proof.Laws.ShapeRoundTrip.float :
    Sys2Proof.Laws.ShapeRoundTrip.Statement .float := rfl
theorem Sys2Proof.Laws.ShapeRoundTrip.fix :
    Sys2Proof.Laws.ShapeRoundTrip.Statement .fix := rfl
theorem Sys2Proof.Laws.ShapeRoundTrip.norm :
    Sys2Proof.Laws.ShapeRoundTrip.Statement .norm := rfl
theorem Sys2Proof.Laws.ShapeRoundTrip.sio :
    Sys2Proof.Laws.ShapeRoundTrip.Statement .sio := rfl
theorem Sys2Proof.Laws.ShapeRoundTrip.hio :
    Sys2Proof.Laws.ShapeRoundTrip.Statement .hio := rfl
theorem Sys2Proof.Laws.ShapeRoundTrip.tio :
    Sys2Proof.Laws.ShapeRoundTrip.Statement .tio := rfl
theorem Sys2Proof.Laws.ShapeRoundTrip.addr (r1 r2 : BitVec 4) :
    Sys2Proof.Laws.ShapeRoundTrip.Statement (.addr r1 r2) := rfl
theorem Sys2Proof.Laws.ShapeRoundTrip.subr (r1 r2 : BitVec 4) :
    Sys2Proof.Laws.ShapeRoundTrip.Statement (.subr r1 r2) := rfl
theorem Sys2Proof.Laws.ShapeRoundTrip.mulr (r1 r2 : BitVec 4) :
    Sys2Proof.Laws.ShapeRoundTrip.Statement (.mulr r1 r2) := rfl
theorem Sys2Proof.Laws.ShapeRoundTrip.divr (r1 r2 : BitVec 4) :
    Sys2Proof.Laws.ShapeRoundTrip.Statement (.divr r1 r2) := rfl
theorem Sys2Proof.Laws.ShapeRoundTrip.compr (r1 r2 : BitVec 4) :
    Sys2Proof.Laws.ShapeRoundTrip.Statement (.compr r1 r2) := rfl
theorem Sys2Proof.Laws.ShapeRoundTrip.shiftl (r1 r2 : BitVec 4) :
    Sys2Proof.Laws.ShapeRoundTrip.Statement (.shiftl r1 r2) := rfl
theorem Sys2Proof.Laws.ShapeRoundTrip.shiftr (r1 r2 : BitVec 4) :
    Sys2Proof.Laws.ShapeRoundTrip.Statement (.shiftr r1 r2) := rfl
theorem Sys2Proof.Laws.ShapeRoundTrip.rmo (r1 r2 : BitVec 4) :
    Sys2Proof.Laws.ShapeRoundTrip.Statement (.rmo r1 r2) := rfl
theorem Sys2Proof.Laws.ShapeRoundTrip.svc (r1 r2 : BitVec 4) :
    Sys2Proof.Laws.ShapeRoundTrip.Statement (.svc r1 r2) := rfl
theorem Sys2Proof.Laws.ShapeRoundTrip.clear (r1 r2 : BitVec 4) :
    Sys2Proof.Laws.ShapeRoundTrip.Statement (.clear r1 r2) := rfl
theorem Sys2Proof.Laws.ShapeRoundTrip.tixr (r1 r2 : BitVec 4) :
    Sys2Proof.Laws.ShapeRoundTrip.Statement (.tixr r1 r2) := rfl
theorem Sys2Proof.Laws.ShapeRoundTrip.ldaSic (m : Sys2Proof.SicOperand) :
    Sys2Proof.Laws.ShapeRoundTrip.Statement (.ldaSic m) := rfl
theorem Sys2Proof.Laws.ShapeRoundTrip.ldaF3 (m : Sys2Proof.F3Operand) :
    Sys2Proof.Laws.ShapeRoundTrip.Statement (.ldaF3 m) := rfl
theorem Sys2Proof.Laws.ShapeRoundTrip.ldaF4 (m : Sys2Proof.F4Operand) :
    Sys2Proof.Laws.ShapeRoundTrip.Statement (.ldaF4 m) := rfl
theorem Sys2Proof.Laws.ShapeRoundTrip.ldxSic (m : Sys2Proof.SicOperand) :
    Sys2Proof.Laws.ShapeRoundTrip.Statement (.ldxSic m) := rfl
theorem Sys2Proof.Laws.ShapeRoundTrip.ldxF3 (m : Sys2Proof.F3Operand) :
    Sys2Proof.Laws.ShapeRoundTrip.Statement (.ldxF3 m) := rfl
theorem Sys2Proof.Laws.ShapeRoundTrip.ldxF4 (m : Sys2Proof.F4Operand) :
    Sys2Proof.Laws.ShapeRoundTrip.Statement (.ldxF4 m) := rfl
theorem Sys2Proof.Laws.ShapeRoundTrip.ldlSic (m : Sys2Proof.SicOperand) :
    Sys2Proof.Laws.ShapeRoundTrip.Statement (.ldlSic m) := rfl
theorem Sys2Proof.Laws.ShapeRoundTrip.ldlF3 (m : Sys2Proof.F3Operand) :
    Sys2Proof.Laws.ShapeRoundTrip.Statement (.ldlF3 m) := rfl
theorem Sys2Proof.Laws.ShapeRoundTrip.ldlF4 (m : Sys2Proof.F4Operand) :
    Sys2Proof.Laws.ShapeRoundTrip.Statement (.ldlF4 m) := rfl
theorem Sys2Proof.Laws.ShapeRoundTrip.staSic (m : Sys2Proof.SicOperand) :
    Sys2Proof.Laws.ShapeRoundTrip.Statement (.staSic m) := rfl
theorem Sys2Proof.Laws.ShapeRoundTrip.staF3 (m : Sys2Proof.F3Operand) :
    Sys2Proof.Laws.ShapeRoundTrip.Statement (.staF3 m) := rfl
theorem Sys2Proof.Laws.ShapeRoundTrip.staF4 (m : Sys2Proof.F4Operand) :
    Sys2Proof.Laws.ShapeRoundTrip.Statement (.staF4 m) := rfl
theorem Sys2Proof.Laws.ShapeRoundTrip.stxSic (m : Sys2Proof.SicOperand) :
    Sys2Proof.Laws.ShapeRoundTrip.Statement (.stxSic m) := rfl
theorem Sys2Proof.Laws.ShapeRoundTrip.stxF3 (m : Sys2Proof.F3Operand) :
    Sys2Proof.Laws.ShapeRoundTrip.Statement (.stxF3 m) := rfl
theorem Sys2Proof.Laws.ShapeRoundTrip.stxF4 (m : Sys2Proof.F4Operand) :
    Sys2Proof.Laws.ShapeRoundTrip.Statement (.stxF4 m) := rfl
theorem Sys2Proof.Laws.ShapeRoundTrip.stlSic (m : Sys2Proof.SicOperand) :
    Sys2Proof.Laws.ShapeRoundTrip.Statement (.stlSic m) := rfl
theorem Sys2Proof.Laws.ShapeRoundTrip.stlF3 (m : Sys2Proof.F3Operand) :
    Sys2Proof.Laws.ShapeRoundTrip.Statement (.stlF3 m) := rfl
theorem Sys2Proof.Laws.ShapeRoundTrip.stlF4 (m : Sys2Proof.F4Operand) :
    Sys2Proof.Laws.ShapeRoundTrip.Statement (.stlF4 m) := rfl
theorem Sys2Proof.Laws.ShapeRoundTrip.addSic (m : Sys2Proof.SicOperand) :
    Sys2Proof.Laws.ShapeRoundTrip.Statement (.addSic m) := rfl
theorem Sys2Proof.Laws.ShapeRoundTrip.addF3 (m : Sys2Proof.F3Operand) :
    Sys2Proof.Laws.ShapeRoundTrip.Statement (.addF3 m) := rfl
theorem Sys2Proof.Laws.ShapeRoundTrip.addF4 (m : Sys2Proof.F4Operand) :
    Sys2Proof.Laws.ShapeRoundTrip.Statement (.addF4 m) := rfl
theorem Sys2Proof.Laws.ShapeRoundTrip.subSic (m : Sys2Proof.SicOperand) :
    Sys2Proof.Laws.ShapeRoundTrip.Statement (.subSic m) := rfl
theorem Sys2Proof.Laws.ShapeRoundTrip.subF3 (m : Sys2Proof.F3Operand) :
    Sys2Proof.Laws.ShapeRoundTrip.Statement (.subF3 m) := rfl
theorem Sys2Proof.Laws.ShapeRoundTrip.subF4 (m : Sys2Proof.F4Operand) :
    Sys2Proof.Laws.ShapeRoundTrip.Statement (.subF4 m) := rfl
theorem Sys2Proof.Laws.ShapeRoundTrip.mulSic (m : Sys2Proof.SicOperand) :
    Sys2Proof.Laws.ShapeRoundTrip.Statement (.mulSic m) := rfl
theorem Sys2Proof.Laws.ShapeRoundTrip.mulF3 (m : Sys2Proof.F3Operand) :
    Sys2Proof.Laws.ShapeRoundTrip.Statement (.mulF3 m) := rfl
theorem Sys2Proof.Laws.ShapeRoundTrip.mulF4 (m : Sys2Proof.F4Operand) :
    Sys2Proof.Laws.ShapeRoundTrip.Statement (.mulF4 m) := rfl
theorem Sys2Proof.Laws.ShapeRoundTrip.divSic (m : Sys2Proof.SicOperand) :
    Sys2Proof.Laws.ShapeRoundTrip.Statement (.divSic m) := rfl
theorem Sys2Proof.Laws.ShapeRoundTrip.divF3 (m : Sys2Proof.F3Operand) :
    Sys2Proof.Laws.ShapeRoundTrip.Statement (.divF3 m) := rfl
theorem Sys2Proof.Laws.ShapeRoundTrip.divF4 (m : Sys2Proof.F4Operand) :
    Sys2Proof.Laws.ShapeRoundTrip.Statement (.divF4 m) := rfl
theorem Sys2Proof.Laws.ShapeRoundTrip.compSic (m : Sys2Proof.SicOperand) :
    Sys2Proof.Laws.ShapeRoundTrip.Statement (.compSic m) := rfl
theorem Sys2Proof.Laws.ShapeRoundTrip.compF3 (m : Sys2Proof.F3Operand) :
    Sys2Proof.Laws.ShapeRoundTrip.Statement (.compF3 m) := rfl
theorem Sys2Proof.Laws.ShapeRoundTrip.compF4 (m : Sys2Proof.F4Operand) :
    Sys2Proof.Laws.ShapeRoundTrip.Statement (.compF4 m) := rfl
theorem Sys2Proof.Laws.ShapeRoundTrip.tixSic (m : Sys2Proof.SicOperand) :
    Sys2Proof.Laws.ShapeRoundTrip.Statement (.tixSic m) := rfl
theorem Sys2Proof.Laws.ShapeRoundTrip.tixF3 (m : Sys2Proof.F3Operand) :
    Sys2Proof.Laws.ShapeRoundTrip.Statement (.tixF3 m) := rfl
theorem Sys2Proof.Laws.ShapeRoundTrip.tixF4 (m : Sys2Proof.F4Operand) :
    Sys2Proof.Laws.ShapeRoundTrip.Statement (.tixF4 m) := rfl
theorem Sys2Proof.Laws.ShapeRoundTrip.jeqSic (m : Sys2Proof.SicOperand) :
    Sys2Proof.Laws.ShapeRoundTrip.Statement (.jeqSic m) := rfl
theorem Sys2Proof.Laws.ShapeRoundTrip.jeqF3 (m : Sys2Proof.F3Operand) :
    Sys2Proof.Laws.ShapeRoundTrip.Statement (.jeqF3 m) := rfl
theorem Sys2Proof.Laws.ShapeRoundTrip.jeqF4 (m : Sys2Proof.F4Operand) :
    Sys2Proof.Laws.ShapeRoundTrip.Statement (.jeqF4 m) := rfl
theorem Sys2Proof.Laws.ShapeRoundTrip.jgtSic (m : Sys2Proof.SicOperand) :
    Sys2Proof.Laws.ShapeRoundTrip.Statement (.jgtSic m) := rfl
theorem Sys2Proof.Laws.ShapeRoundTrip.jgtF3 (m : Sys2Proof.F3Operand) :
    Sys2Proof.Laws.ShapeRoundTrip.Statement (.jgtF3 m) := rfl
theorem Sys2Proof.Laws.ShapeRoundTrip.jgtF4 (m : Sys2Proof.F4Operand) :
    Sys2Proof.Laws.ShapeRoundTrip.Statement (.jgtF4 m) := rfl
theorem Sys2Proof.Laws.ShapeRoundTrip.jltSic (m : Sys2Proof.SicOperand) :
    Sys2Proof.Laws.ShapeRoundTrip.Statement (.jltSic m) := rfl
theorem Sys2Proof.Laws.ShapeRoundTrip.jltF3 (m : Sys2Proof.F3Operand) :
    Sys2Proof.Laws.ShapeRoundTrip.Statement (.jltF3 m) := rfl
theorem Sys2Proof.Laws.ShapeRoundTrip.jltF4 (m : Sys2Proof.F4Operand) :
    Sys2Proof.Laws.ShapeRoundTrip.Statement (.jltF4 m) := rfl
theorem Sys2Proof.Laws.ShapeRoundTrip.jSic (m : Sys2Proof.SicOperand) :
    Sys2Proof.Laws.ShapeRoundTrip.Statement (.jSic m) := rfl
theorem Sys2Proof.Laws.ShapeRoundTrip.jF3 (m : Sys2Proof.F3Operand) :
    Sys2Proof.Laws.ShapeRoundTrip.Statement (.jF3 m) := rfl
theorem Sys2Proof.Laws.ShapeRoundTrip.jF4 (m : Sys2Proof.F4Operand) :
    Sys2Proof.Laws.ShapeRoundTrip.Statement (.jF4 m) := rfl
theorem Sys2Proof.Laws.ShapeRoundTrip.andSic (m : Sys2Proof.SicOperand) :
    Sys2Proof.Laws.ShapeRoundTrip.Statement (.andSic m) := rfl
theorem Sys2Proof.Laws.ShapeRoundTrip.andF3 (m : Sys2Proof.F3Operand) :
    Sys2Proof.Laws.ShapeRoundTrip.Statement (.andF3 m) := rfl
theorem Sys2Proof.Laws.ShapeRoundTrip.andF4 (m : Sys2Proof.F4Operand) :
    Sys2Proof.Laws.ShapeRoundTrip.Statement (.andF4 m) := rfl
theorem Sys2Proof.Laws.ShapeRoundTrip.orSic (m : Sys2Proof.SicOperand) :
    Sys2Proof.Laws.ShapeRoundTrip.Statement (.orSic m) := rfl
theorem Sys2Proof.Laws.ShapeRoundTrip.orF3 (m : Sys2Proof.F3Operand) :
    Sys2Proof.Laws.ShapeRoundTrip.Statement (.orF3 m) := rfl
theorem Sys2Proof.Laws.ShapeRoundTrip.orF4 (m : Sys2Proof.F4Operand) :
    Sys2Proof.Laws.ShapeRoundTrip.Statement (.orF4 m) := rfl
theorem Sys2Proof.Laws.ShapeRoundTrip.jsubSic (m : Sys2Proof.SicOperand) :
    Sys2Proof.Laws.ShapeRoundTrip.Statement (.jsubSic m) := rfl
theorem Sys2Proof.Laws.ShapeRoundTrip.jsubF3 (m : Sys2Proof.F3Operand) :
    Sys2Proof.Laws.ShapeRoundTrip.Statement (.jsubF3 m) := rfl
theorem Sys2Proof.Laws.ShapeRoundTrip.jsubF4 (m : Sys2Proof.F4Operand) :
    Sys2Proof.Laws.ShapeRoundTrip.Statement (.jsubF4 m) := rfl
theorem Sys2Proof.Laws.ShapeRoundTrip.rsubSic (m : Sys2Proof.SicOperand) :
    Sys2Proof.Laws.ShapeRoundTrip.Statement (.rsubSic m) := rfl
theorem Sys2Proof.Laws.ShapeRoundTrip.rsubF3 (m : Sys2Proof.F3Operand) :
    Sys2Proof.Laws.ShapeRoundTrip.Statement (.rsubF3 m) := rfl
theorem Sys2Proof.Laws.ShapeRoundTrip.rsubF4 (m : Sys2Proof.F4Operand) :
    Sys2Proof.Laws.ShapeRoundTrip.Statement (.rsubF4 m) := rfl
theorem Sys2Proof.Laws.ShapeRoundTrip.ldchSic (m : Sys2Proof.SicOperand) :
    Sys2Proof.Laws.ShapeRoundTrip.Statement (.ldchSic m) := rfl
theorem Sys2Proof.Laws.ShapeRoundTrip.ldchF3 (m : Sys2Proof.F3Operand) :
    Sys2Proof.Laws.ShapeRoundTrip.Statement (.ldchF3 m) := rfl
theorem Sys2Proof.Laws.ShapeRoundTrip.ldchF4 (m : Sys2Proof.F4Operand) :
    Sys2Proof.Laws.ShapeRoundTrip.Statement (.ldchF4 m) := rfl
theorem Sys2Proof.Laws.ShapeRoundTrip.stchSic (m : Sys2Proof.SicOperand) :
    Sys2Proof.Laws.ShapeRoundTrip.Statement (.stchSic m) := rfl
theorem Sys2Proof.Laws.ShapeRoundTrip.stchF3 (m : Sys2Proof.F3Operand) :
    Sys2Proof.Laws.ShapeRoundTrip.Statement (.stchF3 m) := rfl
theorem Sys2Proof.Laws.ShapeRoundTrip.stchF4 (m : Sys2Proof.F4Operand) :
    Sys2Proof.Laws.ShapeRoundTrip.Statement (.stchF4 m) := rfl
theorem Sys2Proof.Laws.ShapeRoundTrip.addfSic (m : Sys2Proof.SicOperand) :
    Sys2Proof.Laws.ShapeRoundTrip.Statement (.addfSic m) := rfl
theorem Sys2Proof.Laws.ShapeRoundTrip.addfF3 (m : Sys2Proof.F3Operand) :
    Sys2Proof.Laws.ShapeRoundTrip.Statement (.addfF3 m) := rfl
theorem Sys2Proof.Laws.ShapeRoundTrip.addfF4 (m : Sys2Proof.F4Operand) :
    Sys2Proof.Laws.ShapeRoundTrip.Statement (.addfF4 m) := rfl
theorem Sys2Proof.Laws.ShapeRoundTrip.subfSic (m : Sys2Proof.SicOperand) :
    Sys2Proof.Laws.ShapeRoundTrip.Statement (.subfSic m) := rfl
theorem Sys2Proof.Laws.ShapeRoundTrip.subfF3 (m : Sys2Proof.F3Operand) :
    Sys2Proof.Laws.ShapeRoundTrip.Statement (.subfF3 m) := rfl
theorem Sys2Proof.Laws.ShapeRoundTrip.subfF4 (m : Sys2Proof.F4Operand) :
    Sys2Proof.Laws.ShapeRoundTrip.Statement (.subfF4 m) := rfl
theorem Sys2Proof.Laws.ShapeRoundTrip.mulfSic (m : Sys2Proof.SicOperand) :
    Sys2Proof.Laws.ShapeRoundTrip.Statement (.mulfSic m) := rfl
theorem Sys2Proof.Laws.ShapeRoundTrip.mulfF3 (m : Sys2Proof.F3Operand) :
    Sys2Proof.Laws.ShapeRoundTrip.Statement (.mulfF3 m) := rfl
theorem Sys2Proof.Laws.ShapeRoundTrip.mulfF4 (m : Sys2Proof.F4Operand) :
    Sys2Proof.Laws.ShapeRoundTrip.Statement (.mulfF4 m) := rfl
theorem Sys2Proof.Laws.ShapeRoundTrip.divfSic (m : Sys2Proof.SicOperand) :
    Sys2Proof.Laws.ShapeRoundTrip.Statement (.divfSic m) := rfl
theorem Sys2Proof.Laws.ShapeRoundTrip.divfF3 (m : Sys2Proof.F3Operand) :
    Sys2Proof.Laws.ShapeRoundTrip.Statement (.divfF3 m) := rfl
theorem Sys2Proof.Laws.ShapeRoundTrip.divfF4 (m : Sys2Proof.F4Operand) :
    Sys2Proof.Laws.ShapeRoundTrip.Statement (.divfF4 m) := rfl
theorem Sys2Proof.Laws.ShapeRoundTrip.ldbSic (m : Sys2Proof.SicOperand) :
    Sys2Proof.Laws.ShapeRoundTrip.Statement (.ldbSic m) := rfl
theorem Sys2Proof.Laws.ShapeRoundTrip.ldbF3 (m : Sys2Proof.F3Operand) :
    Sys2Proof.Laws.ShapeRoundTrip.Statement (.ldbF3 m) := rfl
theorem Sys2Proof.Laws.ShapeRoundTrip.ldbF4 (m : Sys2Proof.F4Operand) :
    Sys2Proof.Laws.ShapeRoundTrip.Statement (.ldbF4 m) := rfl
theorem Sys2Proof.Laws.ShapeRoundTrip.ldsSic (m : Sys2Proof.SicOperand) :
    Sys2Proof.Laws.ShapeRoundTrip.Statement (.ldsSic m) := rfl
theorem Sys2Proof.Laws.ShapeRoundTrip.ldsF3 (m : Sys2Proof.F3Operand) :
    Sys2Proof.Laws.ShapeRoundTrip.Statement (.ldsF3 m) := rfl
theorem Sys2Proof.Laws.ShapeRoundTrip.ldsF4 (m : Sys2Proof.F4Operand) :
    Sys2Proof.Laws.ShapeRoundTrip.Statement (.ldsF4 m) := rfl
theorem Sys2Proof.Laws.ShapeRoundTrip.ldfSic (m : Sys2Proof.SicOperand) :
    Sys2Proof.Laws.ShapeRoundTrip.Statement (.ldfSic m) := rfl
theorem Sys2Proof.Laws.ShapeRoundTrip.ldfF3 (m : Sys2Proof.F3Operand) :
    Sys2Proof.Laws.ShapeRoundTrip.Statement (.ldfF3 m) := rfl
theorem Sys2Proof.Laws.ShapeRoundTrip.ldfF4 (m : Sys2Proof.F4Operand) :
    Sys2Proof.Laws.ShapeRoundTrip.Statement (.ldfF4 m) := rfl
theorem Sys2Proof.Laws.ShapeRoundTrip.ldtSic (m : Sys2Proof.SicOperand) :
    Sys2Proof.Laws.ShapeRoundTrip.Statement (.ldtSic m) := rfl
theorem Sys2Proof.Laws.ShapeRoundTrip.ldtF3 (m : Sys2Proof.F3Operand) :
    Sys2Proof.Laws.ShapeRoundTrip.Statement (.ldtF3 m) := rfl
theorem Sys2Proof.Laws.ShapeRoundTrip.ldtF4 (m : Sys2Proof.F4Operand) :
    Sys2Proof.Laws.ShapeRoundTrip.Statement (.ldtF4 m) := rfl
theorem Sys2Proof.Laws.ShapeRoundTrip.stbSic (m : Sys2Proof.SicOperand) :
    Sys2Proof.Laws.ShapeRoundTrip.Statement (.stbSic m) := rfl
theorem Sys2Proof.Laws.ShapeRoundTrip.stbF3 (m : Sys2Proof.F3Operand) :
    Sys2Proof.Laws.ShapeRoundTrip.Statement (.stbF3 m) := rfl
theorem Sys2Proof.Laws.ShapeRoundTrip.stbF4 (m : Sys2Proof.F4Operand) :
    Sys2Proof.Laws.ShapeRoundTrip.Statement (.stbF4 m) := rfl
theorem Sys2Proof.Laws.ShapeRoundTrip.stsSic (m : Sys2Proof.SicOperand) :
    Sys2Proof.Laws.ShapeRoundTrip.Statement (.stsSic m) := rfl
theorem Sys2Proof.Laws.ShapeRoundTrip.stsF3 (m : Sys2Proof.F3Operand) :
    Sys2Proof.Laws.ShapeRoundTrip.Statement (.stsF3 m) := rfl
theorem Sys2Proof.Laws.ShapeRoundTrip.stsF4 (m : Sys2Proof.F4Operand) :
    Sys2Proof.Laws.ShapeRoundTrip.Statement (.stsF4 m) := rfl
theorem Sys2Proof.Laws.ShapeRoundTrip.stfSic (m : Sys2Proof.SicOperand) :
    Sys2Proof.Laws.ShapeRoundTrip.Statement (.stfSic m) := rfl
theorem Sys2Proof.Laws.ShapeRoundTrip.stfF3 (m : Sys2Proof.F3Operand) :
    Sys2Proof.Laws.ShapeRoundTrip.Statement (.stfF3 m) := rfl
theorem Sys2Proof.Laws.ShapeRoundTrip.stfF4 (m : Sys2Proof.F4Operand) :
    Sys2Proof.Laws.ShapeRoundTrip.Statement (.stfF4 m) := rfl
theorem Sys2Proof.Laws.ShapeRoundTrip.sttSic (m : Sys2Proof.SicOperand) :
    Sys2Proof.Laws.ShapeRoundTrip.Statement (.sttSic m) := rfl
theorem Sys2Proof.Laws.ShapeRoundTrip.sttF3 (m : Sys2Proof.F3Operand) :
    Sys2Proof.Laws.ShapeRoundTrip.Statement (.sttF3 m) := rfl
theorem Sys2Proof.Laws.ShapeRoundTrip.sttF4 (m : Sys2Proof.F4Operand) :
    Sys2Proof.Laws.ShapeRoundTrip.Statement (.sttF4 m) := rfl
theorem Sys2Proof.Laws.ShapeRoundTrip.compfSic (m : Sys2Proof.SicOperand) :
    Sys2Proof.Laws.ShapeRoundTrip.Statement (.compfSic m) := rfl
theorem Sys2Proof.Laws.ShapeRoundTrip.compfF3 (m : Sys2Proof.F3Operand) :
    Sys2Proof.Laws.ShapeRoundTrip.Statement (.compfF3 m) := rfl
theorem Sys2Proof.Laws.ShapeRoundTrip.compfF4 (m : Sys2Proof.F4Operand) :
    Sys2Proof.Laws.ShapeRoundTrip.Statement (.compfF4 m) := rfl
theorem Sys2Proof.Laws.ShapeRoundTrip.lpsSic (m : Sys2Proof.SicOperand) :
    Sys2Proof.Laws.ShapeRoundTrip.Statement (.lpsSic m) := rfl
theorem Sys2Proof.Laws.ShapeRoundTrip.lpsF3 (m : Sys2Proof.F3Operand) :
    Sys2Proof.Laws.ShapeRoundTrip.Statement (.lpsF3 m) := rfl
theorem Sys2Proof.Laws.ShapeRoundTrip.lpsF4 (m : Sys2Proof.F4Operand) :
    Sys2Proof.Laws.ShapeRoundTrip.Statement (.lpsF4 m) := rfl
theorem Sys2Proof.Laws.ShapeRoundTrip.stiSic (m : Sys2Proof.SicOperand) :
    Sys2Proof.Laws.ShapeRoundTrip.Statement (.stiSic m) := rfl
theorem Sys2Proof.Laws.ShapeRoundTrip.stiF3 (m : Sys2Proof.F3Operand) :
    Sys2Proof.Laws.ShapeRoundTrip.Statement (.stiF3 m) := rfl
theorem Sys2Proof.Laws.ShapeRoundTrip.stiF4 (m : Sys2Proof.F4Operand) :
    Sys2Proof.Laws.ShapeRoundTrip.Statement (.stiF4 m) := rfl
theorem Sys2Proof.Laws.ShapeRoundTrip.rdSic (m : Sys2Proof.SicOperand) :
    Sys2Proof.Laws.ShapeRoundTrip.Statement (.rdSic m) := rfl
theorem Sys2Proof.Laws.ShapeRoundTrip.rdF3 (m : Sys2Proof.F3Operand) :
    Sys2Proof.Laws.ShapeRoundTrip.Statement (.rdF3 m) := rfl
theorem Sys2Proof.Laws.ShapeRoundTrip.rdF4 (m : Sys2Proof.F4Operand) :
    Sys2Proof.Laws.ShapeRoundTrip.Statement (.rdF4 m) := rfl
theorem Sys2Proof.Laws.ShapeRoundTrip.wdSic (m : Sys2Proof.SicOperand) :
    Sys2Proof.Laws.ShapeRoundTrip.Statement (.wdSic m) := rfl
theorem Sys2Proof.Laws.ShapeRoundTrip.wdF3 (m : Sys2Proof.F3Operand) :
    Sys2Proof.Laws.ShapeRoundTrip.Statement (.wdF3 m) := rfl
theorem Sys2Proof.Laws.ShapeRoundTrip.wdF4 (m : Sys2Proof.F4Operand) :
    Sys2Proof.Laws.ShapeRoundTrip.Statement (.wdF4 m) := rfl
theorem Sys2Proof.Laws.ShapeRoundTrip.tdSic (m : Sys2Proof.SicOperand) :
    Sys2Proof.Laws.ShapeRoundTrip.Statement (.tdSic m) := rfl
theorem Sys2Proof.Laws.ShapeRoundTrip.tdF3 (m : Sys2Proof.F3Operand) :
    Sys2Proof.Laws.ShapeRoundTrip.Statement (.tdF3 m) := rfl
theorem Sys2Proof.Laws.ShapeRoundTrip.tdF4 (m : Sys2Proof.F4Operand) :
    Sys2Proof.Laws.ShapeRoundTrip.Statement (.tdF4 m) := rfl
theorem Sys2Proof.Laws.ShapeRoundTrip.stswSic (m : Sys2Proof.SicOperand) :
    Sys2Proof.Laws.ShapeRoundTrip.Statement (.stswSic m) := rfl
theorem Sys2Proof.Laws.ShapeRoundTrip.stswF3 (m : Sys2Proof.F3Operand) :
    Sys2Proof.Laws.ShapeRoundTrip.Statement (.stswF3 m) := rfl
theorem Sys2Proof.Laws.ShapeRoundTrip.stswF4 (m : Sys2Proof.F4Operand) :
    Sys2Proof.Laws.ShapeRoundTrip.Statement (.stswF4 m) := rfl
theorem Sys2Proof.Laws.ShapeRoundTrip.sskSic (m : Sys2Proof.SicOperand) :
    Sys2Proof.Laws.ShapeRoundTrip.Statement (.sskSic m) := rfl
theorem Sys2Proof.Laws.ShapeRoundTrip.sskF3 (m : Sys2Proof.F3Operand) :
    Sys2Proof.Laws.ShapeRoundTrip.Statement (.sskF3 m) := rfl
theorem Sys2Proof.Laws.ShapeRoundTrip.sskF4 (m : Sys2Proof.F4Operand) :
    Sys2Proof.Laws.ShapeRoundTrip.Statement (.sskF4 m) := rfl
end

