-- ==== Sys2Proof/Tests/Slice0.lean ====
section
/-! SUPPORT. Tests of the model. Expected results come from spec/95_test_vectors.md (the section is named in each comment)
or are calculated by hand from a rule. The last part shows, for every obligation with hypotheses, a concrete case that
meets them. -/

namespace Sys2Proof.Tests

open Sys2Proof.Machine Sys2Proof.Claims

/-! ## Well-formedness (30_encoding.md R69) -/

/-- A format-3 operand with the absolute mode of SIC format is refused. -/
theorem test_f3_with_sic_mode_is_ill_formed : (Instr.ldaF3 ⟨.sic, .direct, false, 0⟩).wellFormed = false := by decide

/-- A format-4 operand with the absolute mode of SIC format is refused. -/
theorem test_f4_with_sic_mode_is_ill_formed : (Instr.sskF4 ⟨.sic, .pcRel, true, 1⟩).wellFormed = false := by decide

theorem test_well_formed_operands :
    (Instr.ldaF3 ⟨.immediate, .invalid, true, -1⟩).wellFormed = true
      ∧ (Instr.ldaF4 ⟨.indirect, .direct, false, 0xFFFFF⟩).wellFormed = true
      ∧ (Instr.ldaSic ⟨true, 0x7FFF⟩).wellFormed = true := by decide

/-! ## Every constructor decoded from a word written out from its row of the encoding (30_encoding.md R56 to R64) -/

theorem test_decode_f1 :
    decode [0b11000000] = .ok (.float, [])
      ∧ decode [0b11000100] = .ok (.fix, [])
      ∧ decode [0b11001000] = .ok (.norm, [])
      ∧ decode [0b11110000] = .ok (.sio, [])
      ∧ decode [0b11110100] = .ok (.hio, [])
      ∧ decode [0b11111000] = .ok (.tio, []) := by decide

theorem test_decode_f2_arithmetic :
    decode [0b10010000, 0b01000001] = .ok (.addr 4 1, [])
      ∧ decode [0b10010100, 0b10011000] = .ok (.subr 9 8, [])
      ∧ decode [0b10011000, 0b11101111] = .ok (.mulr 14 15, [])
      ∧ decode [0b10011100, 0b00110110] = .ok (.divr 3 6, []) := by decide

theorem test_decode_f2_compare_shift_move :
    decode [0b10100000, 0b10001101] = .ok (.compr 8 13, [])
      ∧ decode [0b10100100, 0b11010100] = .ok (.shiftl 13 4, [])
      ∧ decode [0b10101000, 0b00101011] = .ok (.shiftr 2 11, [])
      ∧ decode [0b10101100, 0b01110010] = .ok (.rmo 7 2, []) := by decide

theorem test_decode_f2_rest :
    decode [0b10110000, 0b11001001] = .ok (.svc 12 9, [])
      ∧ decode [0b10110100, 0b00010000] = .ok (.clear 1 0, [])
      ∧ decode [0b10111000, 0b01100111] = .ok (.tixr 6 7, []) := by decide

theorem test_decode_lda :
    decode [0b00000000, 0b01111111, 0b11111111] = .ok (.ldaSic ⟨false, 0x7fff⟩, [])
      ∧ decode [0b00000001, 0b00001111, 0b11111111] = .ok (.ldaF3 ⟨.immediate, .direct, false, -1⟩, [])
      ∧ decode [0b00000011, 0b01111111, 0b11111111, 0b11111111] = .ok (.ldaF4 ⟨.direct, .invalid, false, 0xfffff⟩, []) := by decide

theorem test_decode_ldx :
    decode [0b00000100, 0b10100100, 0b01101010] = .ok (.ldxSic ⟨true, 0x246a⟩, [])
      ∧ decode [0b00000110, 0b00100111, 0b11111111] = .ok (.ldxF3 ⟨.indirect, .pcRel, false, 2047⟩, [])
      ∧ decode [0b00000101, 0b00010000, 0b00010000, 0b00110110] = .ok (.ldxF4 ⟨.immediate, .direct, false, 0x1036⟩, []) := by decide

theorem test_decode_ldl :
    decode [0b00001000, 0b00110110, 0b10011111] = .ok (.ldlSic ⟨false, 0x369f⟩, [])
      ∧ decode [0b00001011, 0b11001000, 0b00000000] = .ok (.ldlF3 ⟨.direct, .baseRel, true, -2048⟩, [])
      ∧ decode [0b00001010, 0b00111000, 0b00000000, 0b00000000] = .ok (.ldlF4 ⟨.indirect, .pcRel, false, 0x80000⟩, []) := by decide

theorem test_decode_sta :
    decode [0b00001100, 0b11001000, 0b11010100] = .ok (.staSic ⟨true, 0x48d4⟩, [])
      ∧ decode [0b00001101, 0b11100001, 0b00100011] = .ok (.staF3 ⟨.immediate, .invalid, true, 291⟩, [])
      ∧ decode [0b00001111, 0b11010000, 0b00000000, 0b00000001] = .ok (.staF4 ⟨.direct, .baseRel, true, 0x1⟩, []) := by decide

theorem test_decode_stx :
    decode [0b00010000, 0b01011011, 0b00001001] = .ok (.stxSic ⟨false, 0x5b09⟩, [])
      ∧ decode [0b00010010, 0b00000000, 0b00000101] = .ok (.stxF3 ⟨.indirect, .direct, false, 5⟩, [])
      ∧ decode [0b00010001, 0b11111111, 0b11111111, 0b11111111] = .ok (.stxF4 ⟨.immediate, .invalid, true, 0xfffff⟩, []) := by decide

theorem test_decode_stl :
    decode [0b00010100, 0b11101101, 0b00111110] = .ok (.stlSic ⟨true, 0x6d3e⟩, [])
      ∧ decode [0b00010111, 0b00101111, 0b11111111] = .ok (.stlF3 ⟨.direct, .pcRel, false, -1⟩, [])
      ∧ decode [0b00010110, 0b10010000, 0b00010000, 0b00110110] = .ok (.stlF4 ⟨.indirect, .direct, true, 0x1036⟩, []) := by decide

theorem test_decode_add :
    decode [0b00011000, 0b01111111, 0b01110011] = .ok (.addSic ⟨false, 0x7f73⟩, [])
      ∧ decode [0b00011001, 0b11000111, 0b11111111] = .ok (.addF3 ⟨.immediate, .baseRel, true, 2047⟩, [])
      ∧ decode [0b00011011, 0b00111000, 0b00000000, 0b00000000] = .ok (.addF4 ⟨.direct, .pcRel, false, 0x80000⟩, []) := by decide

theorem test_decode_sub :
    decode [0b00011100, 0b10010001, 0b10101000] = .ok (.subSic ⟨true, 0x11a8⟩, [])
      ∧ decode [0b00011110, 0b11101000, 0b00000000] = .ok (.subF3 ⟨.indirect, .invalid, true, -2048⟩, [])
      ∧ decode [0b00011101, 0b01010000, 0b00000000, 0b00000001] = .ok (.subF4 ⟨.immediate, .baseRel, false, 0x1⟩, []) := by decide

theorem test_decode_mul :
    decode [0b00100000, 0b00100011, 0b11011101] = .ok (.mulSic ⟨false, 0x23dd⟩, [])
      ∧ decode [0b00100011, 0b00000001, 0b00100011] = .ok (.mulF3 ⟨.direct, .direct, false, 291⟩, [])
      ∧ decode [0b00100010, 0b01111111, 0b11111111, 0b11111111] = .ok (.mulF4 ⟨.indirect, .invalid, false, 0xfffff⟩, []) := by decide

theorem test_decode_div :
    decode [0b00100100, 0b10110110, 0b00010010] = .ok (.divSic ⟨true, 0x3612⟩, [])
      ∧ decode [0b00100101, 0b00100000, 0b00000101] = .ok (.divF3 ⟨.immediate, .pcRel, false, 5⟩, [])
      ∧ decode [0b00100111, 0b10010000, 0b00010000, 0b00110110] = .ok (.divF4 ⟨.direct, .direct, true, 0x1036⟩, []) := by decide

theorem test_decode_comp :
    decode [0b00101000, 0b01001000, 0b01000111] = .ok (.compSic ⟨false, 0x4847⟩, [])
      ∧ decode [0b00101010, 0b11001111, 0b11111111] = .ok (.compF3 ⟨.indirect, .baseRel, true, -1⟩, [])
      ∧ decode [0b00101001, 0b10111000, 0b00000000, 0b00000000] = .ok (.compF4 ⟨.immediate, .pcRel, true, 0x80000⟩, []) := by decide

theorem test_decode_tix :
    decode [0b00101100, 0b11011010, 0b01111100] = .ok (.tixSic ⟨true, 0x5a7c⟩, [])
      ∧ decode [0b00101111, 0b11100111, 0b11111111] = .ok (.tixF3 ⟨.direct, .invalid, true, 2047⟩, [])
      ∧ decode [0b00101110, 0b11010000, 0b00000000, 0b00000001] = .ok (.tixF4 ⟨.indirect, .baseRel, true, 0x1⟩, []) := by decide

theorem test_decode_jeq :
    decode [0b00110000, 0b01101100, 0b10110001] = .ok (.jeqSic ⟨false, 0x6cb1⟩, [])
      ∧ decode [0b00110001, 0b00001000, 0b00000000] = .ok (.jeqF3 ⟨.immediate, .direct, false, -2048⟩, [])
      ∧ decode [0b00110011, 0b01111111, 0b11111111, 0b11111111] = .ok (.jeqF4 ⟨.direct, .invalid, false, 0xfffff⟩, []) := by decide

theorem test_decode_jgt :
    decode [0b00110100, 0b11111110, 0b11100110] = .ok (.jgtSic ⟨true, 0x7ee6⟩, [])
      ∧ decode [0b00110110, 0b00100001, 0b00100011] = .ok (.jgtF3 ⟨.indirect, .pcRel, false, 291⟩, [])
      ∧ decode [0b00110101, 0b00010000, 0b00010000, 0b00110110] = .ok (.jgtF4 ⟨.immediate, .direct, false, 0x1036⟩, []) := by decide

theorem test_decode_jlt :
    decode [0b00111000, 0b00010001, 0b00011011] = .ok (.jltSic ⟨false, 0x111b⟩, [])
      ∧ decode [0b00111011, 0b11000000, 0b00000101] = .ok (.jltF3 ⟨.direct, .baseRel, true, 5⟩, [])
      ∧ decode [0b00111010, 0b00111000, 0b00000000, 0b00000000] = .ok (.jltF4 ⟨.indirect, .pcRel, false, 0x80000⟩, []) := by decide

theorem test_decode_j :
    decode [0b00111100, 0b10100011, 0b01010000] = .ok (.jSic ⟨true, 0x2350⟩, [])
      ∧ decode [0b00111101, 0b11101111, 0b11111111] = .ok (.jF3 ⟨.immediate, .invalid, true, -1⟩, [])
      ∧ decode [0b00111111, 0b11010000, 0b00000000, 0b00000001] = .ok (.jF4 ⟨.direct, .baseRel, true, 0x1⟩, []) := by decide

theorem test_decode_and :
    decode [0b01000000, 0b00110101, 0b10000101] = .ok (.andSic ⟨false, 0x3585⟩, [])
      ∧ decode [0b01000010, 0b00000111, 0b11111111] = .ok (.andF3 ⟨.indirect, .direct, false, 2047⟩, [])
      ∧ decode [0b01000001, 0b11111111, 0b11111111, 0b11111111] = .ok (.andF4 ⟨.immediate, .invalid, true, 0xfffff⟩, []) := by decide

theorem test_decode_or :
    decode [0b01000100, 0b11000111, 0b10111010] = .ok (.orSic ⟨true, 0x47ba⟩, [])
      ∧ decode [0b01000111, 0b00101000, 0b00000000] = .ok (.orF3 ⟨.direct, .pcRel, false, -2048⟩, [])
      ∧ decode [0b01000110, 0b10010000, 0b00010000, 0b00110110] = .ok (.orF4 ⟨.indirect, .direct, true, 0x1036⟩, []) := by decide

theorem test_decode_jsub :
    decode [0b01001000, 0b01011001, 0b11101111] = .ok (.jsubSic ⟨false, 0x59ef⟩, [])
      ∧ decode [0b01001001, 0b11000001, 0b00100011] = .ok (.jsubF3 ⟨.immediate, .baseRel, true, 291⟩, [])
      ∧ decode [0b01001011, 0b00111000, 0b00000000, 0b00000000] = .ok (.jsubF4 ⟨.direct, .pcRel, false, 0x80000⟩, []) := by decide

theorem test_decode_rsub :
    decode [0b01001100, 0b11101100, 0b00100100] = .ok (.rsubSic ⟨true, 0x6c24⟩, [])
      ∧ decode [0b01001110, 0b11100000, 0b00000101] = .ok (.rsubF3 ⟨.indirect, .invalid, true, 5⟩, [])
      ∧ decode [0b01001101, 0b01010000, 0b00000000, 0b00000001] = .ok (.rsubF4 ⟨.immediate, .baseRel, false, 0x1⟩, []) := by decide

theorem test_decode_ldch :
    decode [0b01010000, 0b01111110, 0b01011001] = .ok (.ldchSic ⟨false, 0x7e59⟩, [])
      ∧ decode [0b01010011, 0b00001111, 0b11111111] = .ok (.ldchF3 ⟨.direct, .direct, false, -1⟩, [])
      ∧ decode [0b01010010, 0b01111111, 0b11111111, 0b11111111] = .ok (.ldchF4 ⟨.indirect, .invalid, false, 0xfffff⟩, []) := by decide

theorem test_decode_stch :
    decode [0b01010100, 0b10010000, 0b10001110] = .ok (.stchSic ⟨true, 0x108e⟩, [])
      ∧ decode [0b01010101, 0b00100111, 0b11111111] = .ok (.stchF3 ⟨.immediate, .pcRel, false, 2047⟩, [])
      ∧ decode [0b01010111, 0b10010000, 0b00010000, 0b00110110] = .ok (.stchF4 ⟨.direct, .direct, true, 0x1036⟩, []) := by decide

theorem test_decode_addf :
    decode [0b01011000, 0b00100010, 0b11000011] = .ok (.addfSic ⟨false, 0x22c3⟩, [])
      ∧ decode [0b01011010, 0b11001000, 0b00000000] = .ok (.addfF3 ⟨.indirect, .baseRel, true, -2048⟩, [])
      ∧ decode [0b01011001, 0b10111000, 0b00000000, 0b00000000] = .ok (.addfF4 ⟨.immediate, .pcRel, true, 0x80000⟩, []) := by decide

theorem test_decode_subf :
    decode [0b01011100, 0b10110100, 0b11111000] = .ok (.subfSic ⟨true, 0x34f8⟩, [])
      ∧ decode [0b01011111, 0b11100001, 0b00100011] = .ok (.subfF3 ⟨.direct, .invalid, true, 291⟩, [])
      ∧ decode [0b01011110, 0b11010000, 0b00000000, 0b00000001] = .ok (.subfF4 ⟨.indirect, .baseRel, true, 0x1⟩, []) := by decide

theorem test_decode_mulf :
    decode [0b01100000, 0b01000111, 0b00101101] = .ok (.mulfSic ⟨false, 0x472d⟩, [])
      ∧ decode [0b01100001, 0b00000000, 0b00000101] = .ok (.mulfF3 ⟨.immediate, .direct, false, 5⟩, [])
      ∧ decode [0b01100011, 0b01111111, 0b11111111, 0b11111111] = .ok (.mulfF4 ⟨.direct, .invalid, false, 0xfffff⟩, []) := by decide

theorem test_decode_divf :
    decode [0b01100100, 0b11011001, 0b01100010] = .ok (.divfSic ⟨true, 0x5962⟩, [])
      ∧ decode [0b01100110, 0b00101111, 0b11111111] = .ok (.divfF3 ⟨.indirect, .pcRel, false, -1⟩, [])
      ∧ decode [0b01100101, 0b00010000, 0b00010000, 0b00110110] = .ok (.divfF4 ⟨.immediate, .direct, false, 0x1036⟩, []) := by decide

theorem test_decode_ldb :
    decode [0b01101000, 0b01101011, 0b10010111] = .ok (.ldbSic ⟨false, 0x6b97⟩, [])
      ∧ decode [0b01101011, 0b11000111, 0b11111111] = .ok (.ldbF3 ⟨.direct, .baseRel, true, 2047⟩, [])
      ∧ decode [0b01101010, 0b00111000, 0b00000000, 0b00000000] = .ok (.ldbF4 ⟨.indirect, .pcRel, false, 0x80000⟩, []) := by decide

theorem test_decode_lds :
    decode [0b01101100, 0b11111101, 0b11001100] = .ok (.ldsSic ⟨true, 0x7dcc⟩, [])
      ∧ decode [0b01101101, 0b11101000, 0b00000000] = .ok (.ldsF3 ⟨.immediate, .invalid, true, -2048⟩, [])
      ∧ decode [0b01101111, 0b11010000, 0b00000000, 0b00000001] = .ok (.ldsF4 ⟨.direct, .baseRel, true, 0x1⟩, []) := by decide

theorem test_decode_ldf :
    decode [0b01110000, 0b00010000, 0b00000001] = .ok (.ldfSic ⟨false, 0x1001⟩, [])
      ∧ decode [0b01110010, 0b00000001, 0b00100011] = .ok (.ldfF3 ⟨.indirect, .direct, false, 291⟩, [])
      ∧ decode [0b01110001, 0b11111111, 0b11111111, 0b11111111] = .ok (.ldfF4 ⟨.immediate, .invalid, true, 0xfffff⟩, []) := by decide

theorem test_decode_ldt :
    decode [0b01110100, 0b10100010, 0b00110110] = .ok (.ldtSic ⟨true, 0x2236⟩, [])
      ∧ decode [0b01110111, 0b00100000, 0b00000101] = .ok (.ldtF3 ⟨.direct, .pcRel, false, 5⟩, [])
      ∧ decode [0b01110110, 0b10010000, 0b00010000, 0b00110110] = .ok (.ldtF4 ⟨.indirect, .direct, true, 0x1036⟩, []) := by decide

theorem test_decode_stb :
    decode [0b01111000, 0b00110100, 0b01101011] = .ok (.stbSic ⟨false, 0x346b⟩, [])
      ∧ decode [0b01111001, 0b11001111, 0b11111111] = .ok (.stbF3 ⟨.immediate, .baseRel, true, -1⟩, [])
      ∧ decode [0b01111011, 0b00111000, 0b00000000, 0b00000000] = .ok (.stbF4 ⟨.direct, .pcRel, false, 0x80000⟩, []) := by decide

theorem test_decode_sts :
    decode [0b01111100, 0b11000110, 0b10100000] = .ok (.stsSic ⟨true, 0x46a0⟩, [])
      ∧ decode [0b01111110, 0b11100111, 0b11111111] = .ok (.stsF3 ⟨.indirect, .invalid, true, 2047⟩, [])
      ∧ decode [0b01111101, 0b01010000, 0b00000000, 0b00000001] = .ok (.stsF4 ⟨.immediate, .baseRel, false, 0x1⟩, []) := by decide

theorem test_decode_stf :
    decode [0b10000000, 0b01011000, 0b11010101] = .ok (.stfSic ⟨false, 0x58d5⟩, [])
      ∧ decode [0b10000011, 0b00001000, 0b00000000] = .ok (.stfF3 ⟨.direct, .direct, false, -2048⟩, [])
      ∧ decode [0b10000010, 0b01111111, 0b11111111, 0b11111111] = .ok (.stfF4 ⟨.indirect, .invalid, false, 0xfffff⟩, []) := by decide

theorem test_decode_stt :
    decode [0b10000100, 0b11101011, 0b00001010] = .ok (.sttSic ⟨true, 0x6b0a⟩, [])
      ∧ decode [0b10000101, 0b00100001, 0b00100011] = .ok (.sttF3 ⟨.immediate, .pcRel, false, 291⟩, [])
      ∧ decode [0b10000111, 0b10010000, 0b00010000, 0b00110110] = .ok (.sttF4 ⟨.direct, .direct, true, 0x1036⟩, []) := by decide

theorem test_decode_compf :
    decode [0b10001000, 0b01111101, 0b00111111] = .ok (.compfSic ⟨false, 0x7d3f⟩, [])
      ∧ decode [0b10001010, 0b11000000, 0b00000101] = .ok (.compfF3 ⟨.indirect, .baseRel, true, 5⟩, [])
      ∧ decode [0b10001001, 0b10111000, 0b00000000, 0b00000000] = .ok (.compfF4 ⟨.immediate, .pcRel, true, 0x80000⟩, []) := by decide

theorem test_decode_lps :
    decode [0b11010000, 0b10001111, 0b01110100] = .ok (.lpsSic ⟨true, 0xf74⟩, [])
      ∧ decode [0b11010011, 0b11101111, 0b11111111] = .ok (.lpsF3 ⟨.direct, .invalid, true, -1⟩, [])
      ∧ decode [0b11010010, 0b11010000, 0b00000000, 0b00000001] = .ok (.lpsF4 ⟨.indirect, .baseRel, true, 0x1⟩, []) := by decide

theorem test_decode_sti :
    decode [0b11010100, 0b00100001, 0b10101001] = .ok (.stiSic ⟨false, 0x21a9⟩, [])
      ∧ decode [0b11010101, 0b00000111, 0b11111111] = .ok (.stiF3 ⟨.immediate, .direct, false, 2047⟩, [])
      ∧ decode [0b11010111, 0b01111111, 0b11111111, 0b11111111] = .ok (.stiF4 ⟨.direct, .invalid, false, 0xfffff⟩, []) := by decide

theorem test_decode_rd :
    decode [0b11011000, 0b10110011, 0b11011110] = .ok (.rdSic ⟨true, 0x33de⟩, [])
      ∧ decode [0b11011010, 0b00101000, 0b00000000] = .ok (.rdF3 ⟨.indirect, .pcRel, false, -2048⟩, [])
      ∧ decode [0b11011001, 0b00010000, 0b00010000, 0b00110110] = .ok (.rdF4 ⟨.immediate, .direct, false, 0x1036⟩, []) := by decide

theorem test_decode_wd :
    decode [0b11011100, 0b01000110, 0b00010011] = .ok (.wdSic ⟨false, 0x4613⟩, [])
      ∧ decode [0b11011111, 0b11000001, 0b00100011] = .ok (.wdF3 ⟨.direct, .baseRel, true, 291⟩, [])
      ∧ decode [0b11011110, 0b00111000, 0b00000000, 0b00000000] = .ok (.wdF4 ⟨.indirect, .pcRel, false, 0x80000⟩, []) := by decide

theorem test_decode_td :
    decode [0b11100000, 0b11011000, 0b01001000] = .ok (.tdSic ⟨true, 0x5848⟩, [])
      ∧ decode [0b11100001, 0b11100000, 0b00000101] = .ok (.tdF3 ⟨.immediate, .invalid, true, 5⟩, [])
      ∧ decode [0b11100011, 0b11010000, 0b00000000, 0b00000001] = .ok (.tdF4 ⟨.direct, .baseRel, true, 0x1⟩, []) := by decide

theorem test_decode_stsw :
    decode [0b11101000, 0b01101010, 0b01111101] = .ok (.stswSic ⟨false, 0x6a7d⟩, [])
      ∧ decode [0b11101010, 0b00001111, 0b11111111] = .ok (.stswF3 ⟨.indirect, .direct, false, -1⟩, [])
      ∧ decode [0b11101001, 0b11111111, 0b11111111, 0b11111111] = .ok (.stswF4 ⟨.immediate, .invalid, true, 0xfffff⟩, []) := by decide

theorem test_decode_ssk :
    decode [0b11101100, 0b11111100, 0b10110010] = .ok (.sskSic ⟨true, 0x7cb2⟩, [])
      ∧ decode [0b11101111, 0b00100111, 0b11111111] = .ok (.sskF3 ⟨.direct, .pcRel, false, 2047⟩, [])
      ∧ decode [0b11101110, 0b10010000, 0b00010000, 0b00110110] = .ok (.sskF4 ⟨.indirect, .direct, true, 0x1036⟩, []) := by decide

/-! ## One Step of each instruction -/

/-- The reset machine with an instruction at PC, with registers, and with data in memory. -/
def machine (pc : Word) (code : List Byte) (regs : Regs) (data : List (Nat × List Byte)) : State :=
  { State.reset with
    regs := { regs with PC := pc }
    mem := Memory.setBytes (data.foldl (fun m d => m.setBytes d.1 d.2) []) pc.toNat code }

/-- The machine with the answers its devices will give. -/
def withDevice (s : State) (reads : List (Option Byte)) (writes : List Bool) : State :=
  { s with dev := ⟨reads, writes, []⟩ }

/-- The state after one Step. -/
def after (s : State) : State :=
  match step s with
  | .next t => t
  | .fault _ => s
  | .refused _ => s

/-! ### Arithmetic, logic and compare with memory (V2, B7) -/

theorem test_add :
    (after (machine 0 [0x1B, 0x40, 0x00] { Regs.zero with A := 2, B := 0x1000 } [(0x1000, [0x00, 0x00, 0x05])])).regs = { Regs.zero with A := 7, B := 0x1000, PC := 3 }
      ∧ (after (machine 0 [0x1A, 0x00, 0x10] { Regs.zero with A := 1 } [(0x10, [0x00, 0x00, 0x20]), (0x20, [0x00, 0x00, 0x09])])).regs.A = 0x00000A := by decide

theorem test_sub :
    (after (machine 0 [0x1D, 0x00, 0x07] { Regs.zero with A := 5 } [])).regs = { Regs.zero with A := 0xFFFFFE, PC := 3 } := by decide

theorem test_mul :
    (after (machine 0 [0x23, 0x00, 0x10] { Regs.zero with A := 3 } [(0x10, [0xFF, 0xFF, 0xFE])])).regs.A = 0xFFFFFA
      ∧ (after (machine 0 [0x23, 0x00, 0x10] { Regs.zero with A := 0x1000 } [(0x10, [0x00, 0x10, 0x00])])).regs.A = 0 := by decide

theorem test_div :
    (after (machine 0 [0x25, 0x00, 0x02] { Regs.zero with A := 0xFFFFF9 } [])).regs.A = 0xFFFFFD
      ∧ (after (machine 0 [0x25, 0x0F, 0xFF] { Regs.zero with A := 0x800000 } [])).regs.A = 0x800000 := by decide

theorem test_div_by_zero :
    (after (machine 0 [0x25, 0x00, 0x00] { Regs.zero with A := 10 } [])).trace.error = some .divisionByZero
      ∧ (after (machine 0 [0x25, 0x00, 0x00] { Regs.zero with A := 10 } [])).regs = { Regs.zero with A := 10, PC := 3 } := by decide

theorem test_and :
    (after (machine 0 [0x43, 0x00, 0x10] { Regs.zero with A := 0xFF00F0 } [(0x10, [0x0F, 0xF0, 0xFF])])).regs.A = 0x0F00F0 := by decide

theorem test_or :
    (after (machine 0 [0x47, 0x00, 0x10] { Regs.zero with A := 0xFF00F0 } [(0x10, [0x0F, 0xF0, 0xFF])])).regs.A = 0xFFF0FF := by decide

theorem test_comp :
    (after (machine 0 [0x29, 0x00, 0x00] { Regs.zero with A := 0xFFFFFF } [])).regs.SW = 0x800000
      ∧ (after (machine 0 [0x29, 0x00, 0x07] { Regs.zero with A := 5, SW := 0x123456 } [])).regs.SW = 0 := by decide

theorem test_tix :
    (after (machine 0 [0x2D, 0x00, 0x01] { Regs.zero with X := 0xFFFFFF } [])).regs = { Regs.zero with PC := 3 }
      ∧ (after (machine 0 [0x2F, 0x80, 0x10] { Regs.zero with X := 2 } [(0x12, [0x00, 0x00, 0x03])])).regs = { Regs.zero with X := 3, SW := 0x400000, PC := 3 } := by decide

/-! ### Register forms (B8) -/

theorem test_addr :
    (after (machine 0 [0x90, 0x06] { Regs.zero with A := 0x10, F := 0x000001ABCDEF } [])).regs.F = 0x000011000000
      ∧ (after (machine 0 [0x90, 0x08] { Regs.zero with A := 0x10 } [])).regs.PC = 0x12 := by decide

theorem test_addr_undefined_register :
    (after (machine 0 [0x90, 0x70] { Regs.zero with A := 0x10 } [])).trace.error = some (.invalidRegister 7)
      ∧ (after (machine 0 [0x90, 0x07] { Regs.zero with A := 0x10 } [])).regs = { Regs.zero with A := 0x10, PC := 2 } := by decide

theorem test_subr :
    (after (machine 0 [0x94, 0x01] { Regs.zero with A := 3, X := 10 } [])).regs.X = 7 := by decide

theorem test_mulr :
    (after (machine 0 [0x98, 0x45] { Regs.zero with S := 3, T := 5 } [])).regs.T = 15 := by decide

theorem test_divr :
    (after (machine 0 [0x9C, 0x40] { Regs.zero with S := 3, A := 10 } [])).regs.A = 3
      ∧ (after (machine 0 [0x9C, 0x40] { Regs.zero with A := 10 } [])).trace.error = some .divisionByZero := by decide

theorem test_compr :
    (after (machine 0 [0xA0, 0x04] { Regs.zero with A := 2, S := 3, SW := 0x400000 } [])).regs.SW = 0
      ∧ (after (machine 0 [0xA0, 0x90] { Regs.zero with A := 0x400000, SW := 0x400000 } [])).regs.SW = 0x400000 := by decide

theorem test_tixr :
    (after (machine 0 [0xB8, 0x50] { Regs.zero with X := 2, T := 3 } [])).regs = { Regs.zero with X := 3, T := 3, SW := 0x400000, PC := 2 }
      ∧ (after (machine 0 [0xB8, 0x1F] { Regs.zero with X := 2 } [])).regs.SW = 0x400000 := by decide

theorem test_clear :
    (after (machine 0 [0xB4, 0x60] { Regs.zero with F := 0x123456789ABC } [])).regs = { Regs.zero with PC := 2 }
      ∧ (after (machine 0x10 [0xB4, 0x80] .zero [])).regs.PC = 0 := by decide

theorem test_rmo :
    (after (machine 0 [0xAC, 0x06] { Regs.zero with A := 0xABCDEF, F := 0x123456789ABC } [])).regs.F = 0xABCDEF000000
      ∧ (after (machine 0x10 [0xAC, 0x80] .zero [])).regs.A = 0x12 := by decide

/-! ### Loads (B9) -/

theorem test_lda :
    (after (machine 0 [0x02, 0x00, 0x10] .zero [(0x10, [0x00, 0x00, 0x20]), (0x20, [0xAB, 0xCD, 0xEF])])).regs.A = 0xABCDEF
      ∧ (after (machine 0 [0x01, 0x1F, 0xFF, 0xFF] .zero [])).regs.A = 0x0FFFFF := by decide

theorem test_lda_at_the_top_of_memory :
    (after (machine 0 [0x03, 0x1F, 0xFF, 0xFD] .zero [(0xFFFFD, [0x01, 0x02, 0x03])])).regs.A = 0x010203
      ∧ (after (machine 0 [0x03, 0x1F, 0xFF, 0xFE] .zero [])).trace.error = some (.addressError 0xFFFFE 3) := by decide

theorem test_ldx :
    (after (machine 0 [0x07, 0x00, 0x10] .zero [(0x10, [0x00, 0x00, 0x09])])).regs = { Regs.zero with X := 9, PC := 3 } := by decide

theorem test_ldl :
    (after (machine 0 [0x0B, 0x00, 0x10] .zero [(0x10, [0x00, 0x00, 0x09])])).regs = { Regs.zero with L := 9, PC := 3 } := by decide

theorem test_ldb :
    (after (machine 0 [0x6B, 0x00, 0x10] .zero [(0x10, [0x00, 0x00, 0x09])])).regs = { Regs.zero with B := 9, PC := 3 } := by decide

theorem test_lds :
    (after (machine 0 [0x6F, 0x00, 0x10] .zero [(0x10, [0x00, 0x00, 0x09])])).regs = { Regs.zero with S := 9, PC := 3 } := by decide

theorem test_ldt :
    (after (machine 0 [0x77, 0x00, 0x10] .zero [(0x10, [0x00, 0x00, 0x09])])).regs = { Regs.zero with T := 9, PC := 3 } := by decide

theorem test_ldch :
    (after (machine 0 [0x53, 0x00, 0x10] { Regs.zero with A := 0x123456 } [(0x10, [0x41, 0x42, 0x43])])).regs.A = 0x123441
      ∧ (after (machine 0 [0x52, 0x00, 0x10] { Regs.zero with A := 0x123456 } [(0x10, [0x00, 0x00, 0x20]), (0x20, [0x5A])])).regs.A = 0x12345A := by decide

/-! ### Stores (B10) -/

theorem test_sta :
    (after (machine 0 [0x0E, 0x00, 0x10] { Regs.zero with A := 0x123456 } [(0x10, [0x00, 0x00, 0x20])])).mem.getBytes 0x1F 5 = [0x00, 0x12, 0x34, 0x56, 0x00]
      ∧ (after (machine 0 [0x0D, 0x00, 0x10] { Regs.zero with A := 0x123456 } [])).trace.error = some .immediateTarget := by decide

theorem test_sta_over_the_top_writes_nothing :
    (after (machine 0 [0x0F, 0x1F, 0xFF, 0xFE] { Regs.zero with A := 0x123456 } [])).mem.getBytes 0xFFFFC 4 = [0, 0, 0, 0]
      ∧ (after (machine 0 [0x0F, 0x1F, 0xFF, 0xFE] { Regs.zero with A := 0x123456 } [])).trace.error = some (.addressError 0xFFFFE 3) := by decide

theorem test_stx :
    (after (machine 0 [0x13, 0x00, 0x10] { Regs.zero with X := 0x010203 } [])).mem.getBytes 0x10 4 = [1, 2, 3, 0] := by decide

theorem test_stl :
    (after (machine 0 [0x17, 0x00, 0x10] { Regs.zero with L := 0x010203 } [])).mem.getBytes 0x10 4 = [1, 2, 3, 0] := by decide

theorem test_stb :
    (after (machine 0 [0x7B, 0x00, 0x10] { Regs.zero with B := 0x010203 } [])).mem.getBytes 0x10 4 = [1, 2, 3, 0] := by decide

theorem test_sts :
    (after (machine 0 [0x7F, 0x00, 0x10] { Regs.zero with S := 0x010203 } [])).mem.getBytes 0x10 4 = [1, 2, 3, 0] := by decide

theorem test_stt :
    (after (machine 0 [0x87, 0x00, 0x10] { Regs.zero with T := 0x010203 } [])).mem.getBytes 0x10 4 = [1, 2, 3, 0] := by decide

theorem test_stsw :
    (after (machine 0 [0xEB, 0x00, 0x10] { Regs.zero with SW := 0x800000 } [])).mem.getBytes 0x10 3 = [0x80, 0, 0] := by decide

theorem test_stch :
    (after (machine 0 [0x57, 0x00, 0x10] { Regs.zero with A := 0x123456 } [(0x10, [0x11, 0x22, 0x33])])).mem.getBytes 0x10 3 = [0x56, 0x22, 0x33]
      ∧ (after (machine 0 [0x57, 0x1F, 0xFF, 0xFF] { Regs.zero with A := 0x123456 } [])).mem.getBytes 0xFFFFF 1 = [0x56] := by decide

/-! ### Jumps (B11) -/

theorem test_j :
    (after (machine 0x10 [0x3E, 0x00, 0x40] .zero [(0x40, [0x00, 0x01, 0x00])])).regs.PC = 0x40
      ∧ (after (machine 0x10 [0x3F, 0x90, 0x00, 0x0C] { Regs.zero with X := 4 } [])).control.status = .halted := by decide

theorem test_jeq :
    (after (machine 0 [0x33, 0x20, 0x0D] { Regs.zero with SW := 0x400000 } [])).regs.PC = 0x10
      ∧ (after (machine 0 [0x33, 0x2F, 0xFD] { Regs.zero with SW := 0x400000 } [])).control.status = .idle := by decide

theorem test_jgt :
    (after (machine 0 [0x37, 0x20, 0x0D] { Regs.zero with SW := 0x800000 } [])).regs.PC = 0x10
      ∧ (after (machine 0 [0x37, 0x20, 0x0D] { Regs.zero with SW := 0xC00000 } [])).regs.PC = 3 := by decide

theorem test_jlt :
    (after (machine 0 [0x3B, 0x20, 0x0D] .zero [])).regs.PC = 0x10
      ∧ (after (machine 0 [0x3B, 0x20, 0x0D] { Regs.zero with SW := 0x800000 } [])).regs.PC = 3 := by decide

theorem test_jsub :
    (after (machine 0x10 [0x4B, 0x10, 0x10, 0x36] { Regs.zero with L := 0x99 } [])).regs = { Regs.zero with L := 0x14, PC := 0x1036 } := by decide

theorem test_rsub :
    (after (machine 0x10 [0x4F, 0x9F, 0xFF, 0xFF] { Regs.zero with L := 6 } [])).regs = { Regs.zero with L := 6, PC := 6 }
      ∧ (after (machine 0x10 [0x4F, 0x60, 0x00] { Regs.zero with L := 6 } [])).trace.error = some .invalidBP := by decide

/-! ### Devices (B12) -/

theorem test_rd :
    (after (withDevice (machine 0 [0xDB, 0x00, 0x10] .zero [(0x10, [0xF1, 0x00, 0x05])]) [some 0x7F] [])).regs.A = 0x7F
      ∧ (after (withDevice (machine 0 [0xDB, 0x00, 0x10] .zero [(0x10, [0xF1, 0x00, 0x05])]) [some 0x7F] [])).dev.events = [.read 5 (some 0x7F)] := by decide

theorem test_rd_error :
    (after (withDevice (machine 0 [0xD9, 0x00, 0x00] { Regs.zero with A := 0x123456 } []) [none] [])).trace.error = some (.deviceError 0)
      ∧ (after (withDevice (machine 0 [0xD9, 0x00, 0x00] { Regs.zero with A := 0x123456 } []) [none] [])).regs.A = 0x123456 := by decide

theorem test_wd :
    (after (withDevice (machine 0 [0xDD, 0x0F, 0xFF] { Regs.zero with A := 0x123441 } []) [] [true])).dev = ⟨[], [], [.write 0xFF 0x41 true]⟩
      ∧ (after (withDevice (machine 0 [0xDD, 0x0F, 0xFF] { Regs.zero with A := 0x123441 } []) [] [false])).trace.error = some (.deviceError 0xFF) := by decide

theorem test_td :
    (after (machine 0 [0xE1, 0x00, 0x00] { Regs.zero with SW := 0x800000 } [])).regs = { Regs.zero with PC := 3 }
      ∧ (after (machine 0 [0xE3, 0x1F, 0xFF, 0xFE] { Regs.zero with SW := 0x800000 } [])).regs.SW = 0x800000 := by decide

/-! ### No-ops (B13) -/

theorem test_float :
    (after (machine 0 [0xC0] { Regs.zero with A := 0x123, SW := 0x400000, F := 0x0A0B0C0D0E0F } [(0x10, [0x11, 0x22, 0x33, 0x44, 0x55, 0x66])])).regs
        = { Regs.zero with A := 0x123, SW := 0x400000, F := 0x0A0B0C0D0E0F, PC := 1 }
      ∧ (after (machine 0 [0xC0] .zero [])).trace.unimplemented = true := by decide

theorem test_fix :
    (after (machine 0 [0xC4] { Regs.zero with A := 0x123, SW := 0x400000, F := 0x0A0B0C0D0E0F } [(0x10, [0x11, 0x22, 0x33, 0x44, 0x55, 0x66])])).regs
        = { Regs.zero with A := 0x123, SW := 0x400000, F := 0x0A0B0C0D0E0F, PC := 1 }
      ∧ (after (machine 0 [0xC4] .zero [])).trace.unimplemented = true := by decide

theorem test_norm :
    (after (machine 0 [0xC8] { Regs.zero with A := 0x123, SW := 0x400000, F := 0x0A0B0C0D0E0F } [(0x10, [0x11, 0x22, 0x33, 0x44, 0x55, 0x66])])).regs
        = { Regs.zero with A := 0x123, SW := 0x400000, F := 0x0A0B0C0D0E0F, PC := 1 }
      ∧ (after (machine 0 [0xC8] .zero [])).trace.unimplemented = true := by decide

theorem test_sio :
    (after (machine 0 [0xF0] { Regs.zero with A := 0x123, SW := 0x400000, F := 0x0A0B0C0D0E0F } [(0x10, [0x11, 0x22, 0x33, 0x44, 0x55, 0x66])])).regs
        = { Regs.zero with A := 0x123, SW := 0x400000, F := 0x0A0B0C0D0E0F, PC := 1 }
      ∧ (after (machine 0 [0xF0] .zero [])).trace.unimplemented = true := by decide

theorem test_hio :
    (after (machine 0 [0xF4] { Regs.zero with A := 0x123, SW := 0x400000, F := 0x0A0B0C0D0E0F } [(0x10, [0x11, 0x22, 0x33, 0x44, 0x55, 0x66])])).regs
        = { Regs.zero with A := 0x123, SW := 0x400000, F := 0x0A0B0C0D0E0F, PC := 1 }
      ∧ (after (machine 0 [0xF4] .zero [])).trace.unimplemented = true := by decide

theorem test_tio :
    (after (machine 0 [0xF8] { Regs.zero with A := 0x123, SW := 0x400000, F := 0x0A0B0C0D0E0F } [(0x10, [0x11, 0x22, 0x33, 0x44, 0x55, 0x66])])).regs
        = { Regs.zero with A := 0x123, SW := 0x400000, F := 0x0A0B0C0D0E0F, PC := 1 }
      ∧ (after (machine 0 [0xF8] .zero [])).trace.unimplemented = true := by decide

theorem test_shiftl :
    (after (machine 0 [0xA4, 0x03] { Regs.zero with A := 0x123, SW := 0x400000, F := 0x0A0B0C0D0E0F } [(0x10, [0x11, 0x22, 0x33, 0x44, 0x55, 0x66])])).regs
        = { Regs.zero with A := 0x123, SW := 0x400000, F := 0x0A0B0C0D0E0F, PC := 2 }
      ∧ (after (machine 0 [0xA4, 0x03] .zero [])).trace.unimplemented = true := by decide

theorem test_shiftr :
    (after (machine 0 [0xA8, 0x7F] { Regs.zero with A := 0x123, SW := 0x400000, F := 0x0A0B0C0D0E0F } [(0x10, [0x11, 0x22, 0x33, 0x44, 0x55, 0x66])])).regs
        = { Regs.zero with A := 0x123, SW := 0x400000, F := 0x0A0B0C0D0E0F, PC := 2 }
      ∧ (after (machine 0 [0xA8, 0x7F] .zero [])).trace.unimplemented = true := by decide

theorem test_svc :
    (after (machine 0 [0xB0, 0xF0] { Regs.zero with A := 0x123, SW := 0x400000, F := 0x0A0B0C0D0E0F } [(0x10, [0x11, 0x22, 0x33, 0x44, 0x55, 0x66])])).regs
        = { Regs.zero with A := 0x123, SW := 0x400000, F := 0x0A0B0C0D0E0F, PC := 2 }
      ∧ (after (machine 0 [0xB0, 0xF0] .zero [])).trace.unimplemented = true := by decide

theorem test_addf :
    (after (machine 0 [0x5B, 0x00, 0x10] { Regs.zero with A := 0x123, SW := 0x400000, F := 0x0A0B0C0D0E0F } [(0x10, [0x11, 0x22, 0x33, 0x44, 0x55, 0x66])])).regs
        = { Regs.zero with A := 0x123, SW := 0x400000, F := 0x0A0B0C0D0E0F, PC := 3 }
      ∧ (after (machine 0 [0x5B, 0x00, 0x10] .zero [])).trace.unimplemented = true := by decide

theorem test_subf :
    (after (machine 0 [0x5F, 0x00, 0x10] { Regs.zero with A := 0x123, SW := 0x400000, F := 0x0A0B0C0D0E0F } [(0x10, [0x11, 0x22, 0x33, 0x44, 0x55, 0x66])])).regs
        = { Regs.zero with A := 0x123, SW := 0x400000, F := 0x0A0B0C0D0E0F, PC := 3 }
      ∧ (after (machine 0 [0x5F, 0x00, 0x10] .zero [])).trace.unimplemented = true := by decide

theorem test_mulf :
    (after (machine 0 [0x63, 0x00, 0x10] { Regs.zero with A := 0x123, SW := 0x400000, F := 0x0A0B0C0D0E0F } [(0x10, [0x11, 0x22, 0x33, 0x44, 0x55, 0x66])])).regs
        = { Regs.zero with A := 0x123, SW := 0x400000, F := 0x0A0B0C0D0E0F, PC := 3 }
      ∧ (after (machine 0 [0x63, 0x00, 0x10] .zero [])).trace.unimplemented = true := by decide

theorem test_divf :
    (after (machine 0 [0x67, 0x00, 0x10] { Regs.zero with A := 0x123, SW := 0x400000, F := 0x0A0B0C0D0E0F } [(0x10, [0x11, 0x22, 0x33, 0x44, 0x55, 0x66])])).regs
        = { Regs.zero with A := 0x123, SW := 0x400000, F := 0x0A0B0C0D0E0F, PC := 3 }
      ∧ (after (machine 0 [0x67, 0x00, 0x10] .zero [])).trace.unimplemented = true := by decide

theorem test_compf :
    (after (machine 0 [0x8B, 0x00, 0x10] { Regs.zero with A := 0x123, SW := 0x400000, F := 0x0A0B0C0D0E0F } [(0x10, [0x11, 0x22, 0x33, 0x44, 0x55, 0x66])])).regs
        = { Regs.zero with A := 0x123, SW := 0x400000, F := 0x0A0B0C0D0E0F, PC := 3 }
      ∧ (after (machine 0 [0x8B, 0x00, 0x10] .zero [])).trace.unimplemented = true := by decide

theorem test_ldf :
    (after (machine 0 [0x73, 0x1F, 0xFF, 0xFE] { Regs.zero with A := 0x123, SW := 0x400000, F := 0x0A0B0C0D0E0F } [(0x10, [0x11, 0x22, 0x33, 0x44, 0x55, 0x66])])).regs
        = { Regs.zero with A := 0x123, SW := 0x400000, F := 0x0A0B0C0D0E0F, PC := 4 }
      ∧ (after (machine 0 [0x73, 0x1F, 0xFF, 0xFE] .zero [])).trace.unimplemented = true := by decide

theorem test_lps :
    (after (machine 0 [0xD3, 0x00, 0x10] { Regs.zero with A := 0x123, SW := 0x400000, F := 0x0A0B0C0D0E0F } [(0x10, [0x11, 0x22, 0x33, 0x44, 0x55, 0x66])])).regs
        = { Regs.zero with A := 0x123, SW := 0x400000, F := 0x0A0B0C0D0E0F, PC := 3 }
      ∧ (after (machine 0 [0xD3, 0x00, 0x10] .zero [])).trace.unimplemented = true := by decide

theorem test_sti :
    (after (machine 0 [0xD7, 0x00, 0x10] { Regs.zero with A := 0x123, SW := 0x400000, F := 0x0A0B0C0D0E0F } [(0x10, [0x11, 0x22, 0x33, 0x44, 0x55, 0x66])])).regs
        = { Regs.zero with A := 0x123, SW := 0x400000, F := 0x0A0B0C0D0E0F, PC := 3 }
      ∧ (after (machine 0 [0xD7, 0x00, 0x10] .zero [])).trace.unimplemented = true := by decide

theorem test_stf :
    (after (machine 0 [0x81, 0x00, 0x10] { Regs.zero with F := 0x0A0B0C0D0E0F } [(0x10, [0x11, 0x22, 0x33, 0x44, 0x55, 0x66])])).mem.getBytes 0x10 6 = [0x11, 0x22, 0x33, 0x44, 0x55, 0x66]
      ∧ (after (machine 0 [0x81, 0x00, 0x10] .zero [])).trace.error = none := by decide

theorem test_ssk :
    (after (machine 0 [0xEF, 0x60, 0x00] .zero [])).trace.error = some .invalidBP
      ∧ (after (machine 0 [0xEF, 0x60, 0x00] .zero [])).trace.unimplemented = false := by decide

/-! ### Fetch (B14), the stale image (P7), reset (B17) and the decoder of streams (B4) -/

theorem test_unknown_at_pc :
    (after (machine 0 [0xFF] { Regs.zero with A := 1 } [])).trace.error = some (.invalidOpcode 0xFF)
      ∧ (after (machine 0 [0xFF] { Regs.zero with A := 1 } [])).regs = { Regs.zero with A := 1 } := by decide

theorem test_fetch_at_the_top :
    (after (machine 0xFFFFF [0xC4] .zero [])).regs.PC = 0x100000
      ∧ (after (machine 0xFFFFE [0x01, 0x00] .zero [])).trace.error = some (.addressError 0xFFFFE 3)
      ∧ (after (machine 0xFFFFF [0x90] .zero [])).trace.error = some (.addressError 0xFFFFF 2) := by decide

theorem test_cached_instruction_is_not_fetched_again :
    (after { machine 0 [0x01, 0x00, 0x09] .zero [] with
      image := ⟨[(0, .ins (.ldaF3 ⟨.immediate, .direct, false, 5⟩))], 0, none⟩ }).regs.A = 5 := by decide

theorem test_reset_runs_lda : (after State.reset).regs = { Regs.zero with PC := 3 } := by decide

theorem test_stream_keeps_a_leftover :
    decodeStream [0x90, 0x41, 0x8C, 0x00] 0 = ([(0, .ins (.addr 4 1)), (2, .unknown 0x8C)], [0x00]) := by decide

/-- The host's word of `+JSUB 0x01036`, `byte0` most significant (spec/opcode_table.json). -/
theorem test_table_word : decodeTableWord 32 0x4B101036 = some (.jsubF4 ⟨.direct, .direct, false, 0x1036⟩) := by decide

/-- The same word runs as the next instruction. -/
theorem test_fetch_word : (after (State.reset.withFetchWord 32 0x4B101036)).regs.PC = 0x1036 := by decide

/-! ### The text side: object files (B15, B16), the operand encoder (B6), literals (V3) -/

/-- DOC's continuity failure (V7). -/
theorem test_object_continuity :
    loadObject "HHALT  000000000006\nT000000040100003F\nT000005022FFD\nE000000\n".toList .reset
      = .error (.nonContiguous 3) := by decide

/-- An object file whose J spans two records (B15). -/
theorem test_object_spanning_records :
    (loadObject "HHALT  000000000006\nT000000040100003F\nM00000103\nT000004022FFD\nE000000\n".toList .reset).toOption.map
        (fun s => (s.image, s.mem.getBytes 0 6, s.regs.PC))
      = some (⟨[(0, .ins (.ldaF3 ⟨.immediate, .direct, false, 0⟩)), (3, .ins (.jF3 ⟨.direct, .pcRel, false, -3⟩))], 0, some 5⟩,
        [0x01, 0x00, 0x00, 0x3F, 0x2F, 0xFD], 0) := by decide

/-- The halt program as an object file (R238, B16). -/
theorem test_object_written :
    emitObject ⟨⟨[(0, .ins (.ldaF3 ⟨.immediate, .direct, false, 0⟩)), (3, .ins (.jF3 ⟨.direct, .pcRel, false, -3⟩))], 0, none⟩,
        "HALT".toList, []⟩
      = "HHALT  000000000006\nT000000060100003F2FFD\nE000000\n".toList := by decide

/-- Source lines in the second pass (B6): STCH 0x33,X and +JSUB 0x1036. -/
theorem test_source_lines :
    encodeMnemonic ⟨[], false, 0x10⟩ "STCH".toList ["0x33,X".toList]
        = .ok (some (.stchF3 ⟨.direct, .pcRel, true, 0x23⟩, false))
      ∧ encodeMnemonic ⟨[⟨"SUB".toList, 0x1036, false, 0⟩], true, 4⟩ "+JSUB".toList ["SUB".toList]
        = .ok (some (.jsubF4 ⟨.direct, .direct, false, 0x1036⟩, true)) := by decide

/-- RSUB takes no operand: its bytes are 4F 00 00 (R72), and a line that gives it one is refused. -/
theorem test_rsub_takes_no_operand :
    (encodeMnemonic ⟨[], false, 3⟩ "RSUB".toList []).toOption.map (·.map fun r => encode r.1) = some (some [0x4F, 0, 0])
      ∧ encodeMnemonic ⟨[], false, 3⟩ "RSUB".toList ["#5".toList] = .error .unresolvedSymbol := by decide

/-- The errors of a whole file carry the line on which it ends (R234). -/
theorem test_file_errors_have_lines :
    loadObject "HHALT  000000000006\nT00000001FF\n".toList .reset = .error (.missingEnd 3)
      ∧ loadObject "\n".toList .reset = .error (.empty 2) := by decide

/-- An instruction whose operand was a literal, assembled over one whose operand was a symbol, gets no M record (R236). -/
theorem test_symbol_flag_goes_with_the_entry :
    AsmProgram.symbolAddresses ⟨[], [⟨0, 1, .code (.ldaF3 ⟨.direct, .direct, false, 5⟩) true⟩,
        ⟨3, 2, .code (.ldaF4 ⟨.direct, .direct, false, 5⟩) true⟩, ⟨0, 3, .code (.ldaF3 ⟨.direct, .direct, false, 5⟩) false⟩],
      0, []⟩ = [3] := by decide

theorem test_text_rendering :
    toHex 0xB = "00000B".toList ∧ fromHex "ffffff".toList = some 0xFFFFFF ∧ toDecSigned 0x800000 = "-8388608".toList
      ∧ toBin 5 = "000000000000000000000101".toList := by decide

/-! ## Cases that meet the hypotheses of the obligations, one for each clause, at boundary values

`top` holds a word at the highest address a word can have. `word`, `beyond` and `bad` are format-4 operands: that word, the
first address at which no word fits, and b = p = 1. -/

def top : State := machine 0 [] { Regs.zero with A := 0x123456, X := 1 } [(0xFFFFD, [1, 2, 3])]

def word : F4Operand := ⟨.direct, .direct, false, 0xFFFFD⟩

def beyond : F4Operand := ⟨.direct, .direct, false, 0xFFFFE⟩

def bad : F4Operand := ⟨.direct, .invalid, false, 0⟩

/-- An immediate operand of a value. -/
def imm (v : BitVec 20) : F4Operand := ⟨.immediate, .direct, false, v⟩

/-- The last byte of memory, and the first address above it, by way of X = 1. -/
def lastByte (indexed : Bool) : F4Operand := ⟨.direct, .direct, indexed, 0xFFFFF⟩

theorem witness_DecodeEncodeRoundTrip :
    (Instr.ldaF3 ⟨.immediate, .invalid, true, -2048⟩).wellFormed = true
      ∧ decode [0xEF, 0x7F, 0xFF, 0xFF, 0xC4] = .ok (.sskF4 ⟨.direct, .invalid, false, 0xFFFFF⟩, [0xC4]) := by decide

theorem witness_DivideTruncatesTowardZero : (0xFFFFFF : Word) ≠ 0 ∧ ¬ ((0x800001 : Word) = 0x800000 ∧ (0xFFFFFF : Word) = 0xFFFFFF) := by
  decide

theorem witness_CompareIsUnsigned : (0x800000 : Word).toInt < 0 ∧ 0 ≤ (0x7FFFFF : Word).toInt := by decide

theorem witness_WordWriteThenRead : top.mem.wf = true ∧ 0xFFFFD + 3 ≤ Config.memSize := by decide

/-- One access of each width that just fits and one that just does not. -/
theorem witness_AccessesOutsideMemoryRefusedWhole :
    0xFFFFF + 1 - 1 ≤ 0xFFFFF ∧ 0x100000 + 1 - 1 > 0xFFFFF ∧ 0xFFFFD + 3 - 1 ≤ 0xFFFFF ∧ 0xFFFFE + 3 - 1 > 0xFFFFF
      ∧ 0xFFFFA + 6 - 1 ≤ 0xFFFFF ∧ 0xFFFFB + 6 - 1 > 0xFFFFF := by decide

theorem witness_AddressResolution : bad.mode.rel = .invalid ∧ word.mode.rel ≠ .invalid := by decide

theorem witness_OperandsByAbsoluteMode :
    memReadWord top.mem 0xFFFFD = .ok 0x010203 ∧ memReadWord top.mem 0xFFFFE = .error (.addressError 0xFFFFE 3) := by
  decide

theorem witness_InvalidModeBitsRaiseInEveryOpcode :
    (⟨.direct, .invalid, false, 0⟩ : F3Operand).rel = .invalid ∧ bad.rel = .invalid
      ∧ (⟨.direct, .invalid, false, 0⟩ : F3Operand).wellFormed = true ∧ bad.wellFormed = true
      ∧ ∃ t, exec (Op34.sicInstr ⟨false, 0⟩ .lda) top = .next t := ⟨rfl, rfl, rfl, rfl, _, rfl⟩

/-- The hypotheses of the statements about an instruction with a word operand: b = p = 1, a word that is there, and one
that is not. -/
theorem witness_operand :
    bad.mode.rel = .invalid
      ∧ (Resolves word.mode 4 top 0xFFFFD ∧ operand top.mem word.mode.abs 0xFFFFD = .ok 0x010203)
      ∧ (Resolves beyond.mode 4 top 0xFFFFE ∧ operand top.mem beyond.mode.abs 0xFFFFE = .error (.addressError 0xFFFFE 3)) := by
  unfold Resolves; decide

theorem witness_WordLoadsTakeTheOperand :
    bad.mode.rel = .invalid
      ∧ (Resolves word.mode 4 top 0xFFFFD ∧ operand top.mem word.mode.abs 0xFFFFD = .ok 0x010203)
      ∧ (Resolves beyond.mode 4 top 0xFFFFE ∧ operand top.mem beyond.mode.abs 0xFFFFE = .error (.addressError 0xFFFFE 3)) :=
  witness_operand

theorem witness_ByteLoadKeepsUpperBits :
    bad.mode.rel = .invalid
      ∧ (Resolves (lastByte false).mode 4 top 0xFFFFF ∧ byteOperand top.mem (lastByte false).mode.abs 0xFFFFF = .ok 3)
      ∧ (Resolves (lastByte true).mode 4 top 0x100000
        ∧ byteOperand top.mem (lastByte true).mode.abs 0x100000 = .error (.addressError 0x100000 1)) := by
  unfold Resolves; decide

/-- The hypotheses of the statements about a word store: a target that just fits, one that does not, no target. -/
theorem witness_WordStoresWriteThreeBytes :
    bad.mode.rel = .invalid ∧ top.mem.wf = true
      ∧ (Resolves word.mode 4 top 0xFFFFD ∧ targetStore top.mem word.mode.abs 0xFFFFD = .ok 0xFFFFD
        ∧ (0xFFFFD : Word).toNat + 3 ≤ Config.memSize)
      ∧ (Resolves beyond.mode 4 top 0xFFFFE ∧ targetStore top.mem beyond.mode.abs 0xFFFFE = .ok 0xFFFFE
        ∧ (0xFFFFE : Word).toNat + 3 > Config.memSize)
      ∧ (Resolves (imm 0).mode 4 top 0 ∧ targetStore top.mem (imm 0).mode.abs 0 = .error .immediateTarget) := by
  unfold Resolves; decide

theorem witness_StatusWordStore :
    bad.mode.rel = .invalid ∧ top.mem.wf = true
      ∧ (Resolves word.mode 4 top 0xFFFFD ∧ targetStore top.mem word.mode.abs 0xFFFFD = .ok 0xFFFFD
        ∧ (0xFFFFD : Word).toNat + 3 ≤ Config.memSize)
      ∧ (Resolves beyond.mode 4 top 0xFFFFE ∧ targetStore top.mem beyond.mode.abs 0xFFFFE = .ok 0xFFFFE
        ∧ (0xFFFFE : Word).toNat + 3 > Config.memSize)
      ∧ (Resolves (imm 0).mode 4 top 0 ∧ targetStore top.mem (imm 0).mode.abs 0 = .error .immediateTarget) :=
  witness_WordStoresWriteThreeBytes

theorem witness_ByteStoreWritesOneByte :
    bad.mode.rel = .invalid ∧ top.mem.wf = true
      ∧ (Resolves (lastByte false).mode 4 top 0xFFFFF ∧ targetStore top.mem .direct 0xFFFFF = .ok 0xFFFFF
        ∧ (0xFFFFF : Word).toNat ≤ 0xFFFFF)
      ∧ (Resolves (lastByte true).mode 4 top 0x100000 ∧ targetStore top.mem .direct 0x100000 = .ok 0x100000
        ∧ (0x100000 : Word).toNat > 0xFFFFF)
      ∧ (Resolves (imm 0).mode 4 top 0 ∧ targetStore top.mem (imm 0).mode.abs 0 = .error .immediateTarget) := by
  unfold Resolves; decide

theorem witness_AccumulatorArithmetic :
    bad.mode.rel = .invalid
      ∧ (Resolves word.mode 4 top 0xFFFFD ∧ operand top.mem word.mode.abs 0xFFFFD = .ok 0x010203)
      ∧ (Resolves beyond.mode 4 top 0xFFFFE ∧ operand top.mem beyond.mode.abs 0xFFFFE = .error (.addressError 0xFFFFE 3)) :=
  witness_operand

/-- A zero and a non-zero divisor. -/
theorem witness_DivideAndItsError :
    bad.mode.rel = .invalid
      ∧ (Resolves beyond.mode 4 top 0xFFFFE ∧ operand top.mem beyond.mode.abs 0xFFFFE = .error (.addressError 0xFFFFE 3))
      ∧ (Resolves (imm 0).mode 4 top 0 ∧ operand top.mem (imm 0).mode.abs 0 = .ok 0)
      ∧ (Resolves (imm 1).mode 4 top 1 ∧ operand top.mem (imm 1).mode.abs 1 = .ok 1 ∧ (1 : Word) ≠ 0) := by
  unfold Resolves; decide

/-- An operand below, equal to and above A = 0x123456. -/
theorem witness_CompareSetsStatusWord :
    bad.mode.rel = .invalid
      ∧ (Resolves beyond.mode 4 top 0xFFFFE ∧ operand top.mem beyond.mode.abs 0xFFFFE = .error (.addressError 0xFFFFE 3))
      ∧ (Resolves word.mode 4 top 0xFFFFD ∧ operand top.mem word.mode.abs 0xFFFFD = .ok 0x010203
        ∧ (0x010203 : Word).toNat < top.regs.A.toNat)
      ∧ (operand top.mem .immediate 0x123456 = .ok 0x123456 ∧ top.regs.A = 0x123456)
      ∧ (operand top.mem .immediate 0x123457 = .ok 0x123457 ∧ top.regs.A.toNat < (0x123457 : Word).toNat) := by
  unfold Resolves; decide

/-- An operand above, equal to and below X + 1 = 2. -/
theorem witness_TixIncrementsThenCompares :
    bad.mode.rel = .invalid
      ∧ (Resolves beyond.mode 4 top 0xFFFFE ∧ operand top.mem beyond.mode.abs 0xFFFFE = .error (.addressError 0xFFFFE 3))
      ∧ (Resolves (imm 3).mode 4 top 3 ∧ operand top.mem .immediate 3 = .ok 3 ∧ (top.regs.X + 1).toNat < 3)
      ∧ (Resolves (imm 2).mode 4 top 2 ∧ operand top.mem .immediate 2 = .ok 2 ∧ top.regs.X + 1 = 2)
      ∧ (Resolves (imm 1).mode 4 top 1 ∧ operand top.mem .immediate 1 = .ok 1 ∧ 1 < (top.regs.X + 1).toNat) := by
  unfold Resolves; decide

/-- Defined and undefined register ids, where they meet. -/
theorem witness_RegisterArithmetic :
    Reg.ofId? 6 = some .F ∧ Reg.ofId? 7 = none ∧ Reg.ofId? 8 = some .PC ∧ Reg.ofId? 9 = some .SW ∧ Reg.ofId? 10 = none
      ∧ Reg.ofId? 15 = none := by decide

theorem witness_RegisterDivide :
    Reg.ofId? 7 = none ∧ (Reg.ofId? 0 ≠ none ∧ Reg.ofId? 10 = none)
      ∧ (Reg.ofId? 1 = some .X ∧ Reg.ofId? 0 = some .A ∧ (advanced top 2).get .X ≠ 0)
      ∧ (Reg.ofId? 4 = some .S ∧ (advanced top 2).get .S = 0) := by decide

theorem witness_RegisterCompareAndMove :
    Reg.ofId? 7 = none ∧ (Reg.ofId? 0 = some .A ∧ Reg.ofId? 10 = none) ∧ (Reg.ofId? 9 = some .SW ∧ Reg.ofId? 8 = some .PC) := by
  decide

theorem witness_TixrComparesAfterIncrement :
    Reg.ofId? 7 = none ∧ (1 : BitVec 4) = 1 ∧ (Reg.ofId? 0 = some .A ∧ Reg.A ≠ .X) ∧ (Reg.ofId? 9 = some .SW ∧ Reg.SW ≠ .X) := by
  decide

/-- A jump to its own address, and one to the next address. -/
theorem witness_JumpAndHalt :
    bad.mode.rel = .invalid
      ∧ Resolves (⟨.direct, .pcRel, false, -3⟩ : F3Operand).mode 3 top top.regs.PC
      ∧ Resolves (⟨.direct, .pcRel, false, 0⟩ : F3Operand).mode 3 top 3 := by
  unfold Resolves; decide

/-- Status words for which each of the three conditions holds, and one for which none does. -/
theorem witness_ConditionalJumps :
    bad.mode.rel = .invalid ∧ Resolves word.mode 4 top 0xFFFFD
      ∧ (0x400000 : Word).extractLsb' 22 2 = 0b01 ∧ (0x800000 : Word).extractLsb' 22 2 = 0b10
      ∧ (0x3FFFFF : Word).extractLsb' 22 2 = 0b00 ∧ (0xC00000 : Word).extractLsb' 22 2 = 0b11 := by
  unfold Resolves; decide

theorem witness_CallAndReturn : bad.mode.rel = .invalid ∧ Resolves word.mode 4 top 0xFFFFD := by
  unfold Resolves; decide

/-- An answer and an Error of the device. -/
theorem witness_DeviceReadTransfersOneByte :
    bad.mode.rel = .invalid
      ∧ (Resolves beyond.mode 4 top 0xFFFFE ∧ operand top.mem beyond.mode.abs 0xFFFFE = .error (.addressError 0xFFFFE 3))
      ∧ (Resolves word.mode 4 top 0xFFFFD ∧ operand top.mem word.mode.abs 0xFFFFD = .ok 0x010203)
      ∧ (withDevice top [some 0xFF] []).dev.readAnswer 3 = some 0xFF ∧ (withDevice top [none] []).dev.readAnswer 3 = none := by
  unfold Resolves; decide

theorem witness_DeviceWriteTransfersOneByte :
    bad.mode.rel = .invalid
      ∧ (Resolves beyond.mode 4 top 0xFFFFE ∧ operand top.mem beyond.mode.abs 0xFFFFE = .error (.addressError 0xFFFFE 3))
      ∧ (Resolves word.mode 4 top 0xFFFFD ∧ operand top.mem word.mode.abs 0xFFFFD = .ok 0x010203)
      ∧ (withDevice top [] [true]).dev.writeAnswer 3 0x56 = true ∧ (withDevice top [] [false]).dev.writeAnswer 3 0x56 = false := by
  unfold Resolves; decide

theorem witness_DeviceTestIsAlwaysReady :
    bad.mode.rel = .invalid
      ∧ (Resolves word.mode 4 top 0xFFFFD ∧ operand top.mem word.mode.abs 0xFFFFD = .ok 0x010203)
      ∧ (Resolves beyond.mode 4 top 0xFFFFE ∧ operand top.mem beyond.mode.abs 0xFFFFE = .error (.addressError 0xFFFFE 3)) :=
  witness_operand

theorem witness_UnimplementedMemoryFormsDoNothing : bad.mode.rel = .invalid ∧ Resolves beyond.mode 4 top 0xFFFFE := by
  unfold Resolves; decide

/-- The halt program in memory and image, on its J at 3 (V1). -/
def halted : State :=
  { machine 3 [0x3F, 0x2F, 0xFD] .zero [] with
    image := ⟨[(3, .ins (.jF3 ⟨.direct, .pcRel, false, -3⟩))], 0, some 5⟩
    control := ⟨.halted, false, false⟩ }

/-- An Unknown/data byte in memory and image. -/
def foreign : State := { machine 0 [0xFF] .zero [] with image := ⟨[(0, .unknown 0xFF)], 0, some 0⟩ }

/-- An LDA #5 in the last three bytes of memory, not in the image. -/
def lastLda : State := machine 0xFFFFD [0x01, 0x00, 0x05] .zero []

theorem witness_StepRunsTheDecodedInstruction :
    halted.image.entries.lookup halted.regs.PC.toNat = some (.ins (.jF3 ⟨.direct, .pcRel, false, -3⟩))
      ∧ lastLda.image.entries.lookup lastLda.regs.PC.toNat = none
      ∧ (Instr.ldaF3 ⟨.immediate, .direct, false, 5⟩).wellFormed = true
      ∧ lastLda.regs.PC.toNat + (Instr.ldaF3 ⟨.immediate, .direct, false, 5⟩).length ≤ Config.memSize
      ∧ lastLda.mem.getBytes lastLda.regs.PC.toNat (Instr.ldaF3 ⟨.immediate, .direct, false, 5⟩).length
        = encode (.ldaF3 ⟨.immediate, .direct, false, 5⟩)
      ∧ tailEntries lastLda.mem lastLda.image.lastByteAddr
          (lastLda.regs.PC.toNat + (Instr.ldaF3 ⟨.immediate, .direct, false, 5⟩).length) = .ok [] := by decide

theorem witness_FailedFetchLeavesPC :
    foreign.image.entries.lookup foreign.regs.PC.toNat = some (.unknown 0xFF)
      ∧ (State.reset.image.entries.lookup (0x100000 : Word).toNat = none ∧ Config.memSize ≤ (0x100000 : Word).toNat)
      ∧ ∃ t u, step foreign = .next t ∧ t.trace.error = some (.invalidOpcode 0xFF) ∧ step t = .next u :=
  ⟨by decide, by decide, _, _, rfl, rfl, rfl⟩

theorem witness_FailedStepWritesOnlyPC : ∃ t, step foreign = .next t ∧ t.trace.error = some (.invalidOpcode 0xFF) :=
  ⟨_, rfl, rfl⟩

theorem witness_HaltsOnlyAtSelfJump :
    (∃ t, step halted = .next t ∧ t.control.status = .halted)
      ∧ ∃ t, step lastLda = .next t ∧ t.control.status = .idle := ⟨⟨_, rfl, rfl⟩, _, rfl, rfl⟩

theorem witness_HaltedStateIsFixed :
    (∃ t, step halted = .next t) ∧ HaltedAtSelfJump halted ∧ halted.control.status = .halted :=
  ⟨⟨_, rfl⟩,
    fun _ => ⟨.jF3 ⟨.direct, .pcRel, false, -3⟩, 3, (⟨.direct, .pcRel, false, -3⟩ : F3Operand).mode,
      .inr (.inl ⟨⟨.direct, .pcRel, false, -3⟩, rfl, rfl, rfl⟩), by decide, by decide⟩,
    rfl⟩

theorem inv_halted : Inv halted := ⟨by decide, by decide, rfl, .inr rfl, fun l h => by cases h; decide⟩

theorem inv_foreign : Inv foreign := ⟨by decide, by decide, rfl, .inl rfl, fun l h => by cases h; decide⟩

theorem inv_lastLda : Inv lastLda := ⟨by decide, by decide, rfl, .inl rfl, fun l h => by cases h⟩

/-- A state whose image has one entry is coherent when that entry is. -/
theorem coherent_of_one {s : State} {a : Nat} {e : Entry} (hi : s.image.entries = [(a, e)])
    (h : liveDecode s.mem a = .ok e) : Coherent s := by
  intro b x hb
  rw [hi] at hb
  simp only [Entries.lookup] at hb
  split at hb
  · rename_i hab
    subst hab
    cases hb
    exact h
  · cases hb

theorem coherent_lastLda : Coherent lastLda := fun _ _ h => by cases h

theorem witness_StepKeepsInvariant : Inv halted ∧ ∃ t, step halted = .next t := ⟨inv_halted, _, rfl⟩

theorem witness_CoherentFetchIsLiveDecode :
    (Inv halted ∧ Coherent halted
        ∧ liveDecode halted.mem halted.regs.PC.toNat = .ok (.ins (.jF3 ⟨.direct, .pcRel, false, -3⟩)))
      ∧ (Inv foreign ∧ Coherent foreign ∧ liveDecode foreign.mem foreign.regs.PC.toNat = .ok (.unknown 0xFF))
      ∧ (Inv (machine 0x100000 [] .zero []) ∧ Coherent (machine 0x100000 [] .zero [])
        ∧ liveDecode (machine 0x100000 [] .zero []).mem (machine 0x100000 [] .zero []).regs.PC.toNat
          = .error (.addressError 0x100000 1)) :=
  ⟨⟨inv_halted, coherent_of_one rfl (by decide), by decide⟩, ⟨inv_foreign, coherent_of_one rfl (by decide), by decide⟩,
    ⟨by decide, by decide, rfl, .inl rfl, fun l h => by cases h⟩, (fun _ _ h => by cases h), by decide⟩

/-- A store just behind the code of the image keeps it coherent. -/
theorem witness_StepKeepsCoherence :
    (Coherent halted ∧ halted.image.entries.lookup halted.regs.PC.toNat = some (.ins (.jF3 ⟨.direct, .pcRel, false, -3⟩)))
      ∧ (Inv lastLda ∧ Coherent lastLda ∧ ∃ p, resync lastLda.mem lastLda.image lastLda.regs.PC.toNat = .ok p)
      ∧ (Inv halted ∧ Coherent halted ∧ ∃ t, step halted = .next t ∧ ∀ a, t.mem.get a ≠ halted.mem.get a → OutsideCode t a)
      ∧ OutsideCode halted 6 ∧ ¬ OutsideCode halted 5 := by
  have hc : Coherent halted := coherent_of_one (a := 3) rfl (by decide)
  refine ⟨⟨hc, by decide⟩, ⟨inv_lastLda, coherent_lastLda, _, rfl⟩,
    ⟨inv_halted, hc, _, rfl, fun a h => absurd rfl h⟩, ?_, ?_⟩
  · intro k e hk
    simp only [halted, Entries.lookup] at hk
    split at hk
    · rename_i h3
      subst h3
      cases hk
      exact .inr (by decide)
    · cases hk
  · intro h
    have := h 3 (.ins (.jF3 ⟨.direct, .pcRel, false, -3⟩)) (by decide)
    revert this
    decide

theorem witness_StoresNeverChangeTheImage : ∃ t, exec (.staF4 word) top = .next t ∧ t.mem ≠ top.mem :=
  ⟨_, rfl, by decide⟩

theorem witness_OnlyStoresChangeMemory :
    ∃ t, exec (.ldaF4 word) top = .next t
      ∧ ∀ op ∈ ([.sta, .stx, .stl, .stb, .sts, .stt, .stsw, .stch] : List Op34), ¬ (Instr.ldaF4 word).IsOp34 op := by
  refine ⟨_, rfl, ?_⟩
  intro op hop h
  simp only [Instr.IsOp34, Instr.shape, reduceCtorEq, exists_false, false_or, Shape.f4.injEq] at h
  obtain ⟨_, rfl, _⟩ := h
  simp at hop

theorem witness_RegistersWrittenOnlyByTheirInstructions :
    ∃ t, exec (.ldaF4 word) top = .next t ∧ Reg.X ≠ .PC ∧ Reg.X ∉ mayWrite (.ldaF4 word)
      ∧ Reg.PC ∉ mayWrite (.ldaF4 word) := ⟨_, rfl, by decide, by decide, by decide⟩

/-- Neither RD nor WD, and each of these with success and with an error of the device. -/
theorem witness_OnlyRdAndWdCallDevices :
    (∃ t, exec (.ldaF4 word) top = .next t ∧ ¬ (Instr.ldaF4 word).IsOp34 .rd ∧ ¬ (Instr.ldaF4 word).IsOp34 .wd)
      ∧ ((Instr.rdF4 word).IsOp34 .rd ∧ (Instr.wdF4 word).IsOp34 .wd)
      ∧ (∃ t, exec (.rdF4 word) (withDevice top [some 0] []) = .next t ∧ t.trace.error = none)
      ∧ (∃ t d, exec (.rdF4 word) (withDevice top [none] []) = .next t ∧ t.trace.error = some (.deviceError d))
      ∧ (∃ t, exec (.wdF4 word) (withDevice top [] [true]) = .next t ∧ t.trace.error = none)
      ∧ ∃ t d, exec (.wdF4 word) (withDevice top [] [false]) = .next t ∧ t.trace.error = some (.deviceError d) :=
  ⟨⟨_, rfl, by simp [Instr.IsOp34, Instr.shape], by simp [Instr.IsOp34, Instr.shape]⟩,
    ⟨.inr (.inr ⟨word, rfl⟩), .inr (.inr ⟨word, rfl⟩)⟩, ⟨_, rfl, rfl⟩, ⟨_, _, rfl, rfl⟩, ⟨_, rfl, rfl⟩, _, _, rfl, rfl⟩

theorem witness_DevicesDoNotLeakIntoOtherInstructions :
    ∃ t, exec (.tdF4 word) top = .next t ∧ ¬ (Instr.tdF4 word).IsOp34 .rd ∧ ¬ (Instr.tdF4 word).IsOp34 .wd :=
  ⟨_, rfl, by simp [Instr.IsOp34, Instr.shape], by simp [Instr.IsOp34, Instr.shape]⟩

/-- An assembled program of one line that fits at the top of memory, and one that does not. -/
def oneLine (addr : Nat) : AsmProgram :=
  ⟨[], [⟨addr, 7, .code (.ldaF3 ⟨.immediate, .direct, false, 5⟩) false⟩], 0xFFFFD, []⟩

/-- A text and an assembly that fail, ones that load, and the state they load. -/
theorem witness_FailedLoadChangesNothing :
    (perform (.loadObject []) top).2 = .formatError (.empty 1)
      ∧ (∃ p, (perform (.loadObject "HA     000000000000\nE000000".toList) top).2 = .loaded p)
      ∧ (∃ u, loadObject "HA     000000000000\nE000000".toList top = .ok u)
      ∧ (perform (.loadAssembly (.program (oneLine 0xFFFFE))) top).2 = .assemblyError ⟨.operandRange, 7⟩
      ∧ (∃ i, (perform (.loadAssembly (.program (oneLine 0xFFFFD))) top).2 = .assembled i [])
      ∧ ∃ u, loadAssembled (oneLine 0xFFFFD) top = .ok u :=
  ⟨by decide, ⟨_, rfl⟩, ⟨_, rfl⟩, by decide, ⟨_, rfl⟩, _, rfl⟩

theorem witness_LoadedStateIsWellFormed :
    (∃ u, loadObject "HA     0FFFFD000003\nT0FFFFD03010005\nE0FFFFD".toList top = .ok u)
      ∧ ∃ u, loadAssembled (oneLine 0xFFFFD) top = .ok u := ⟨⟨_, rfl⟩, _, rfl⟩

/-- With a leftover the record at the expected address and one beside it; without one any record; at the top of memory. -/
theorem witness_NonContiguousRecordIsRefused :
    (0xFFFFD + [(1 : Byte), 2, 3].length ≤ Config.memSize)
      ∧ (⟨{ top with loader := ⟨[0x3F], some 3, some 4⟩ }, true, true, none⟩ : Reader).inUnit = true
      ∧ ([0x3F] : List Byte) ≠ [] ∧ some 4 ≠ some 5 ∧ top.loader.left = [] := by decide

/-- Nothing pending, and the leftover 3F of the worked example of R238 before the record at its continuation. -/
theorem witness_SplitRecordsLoadAsOne :
    Continues State.reset.loader 0xFFFFF ∧ Continues { top with loader := ⟨[0x3F], some 3, some 4⟩ }.loader 4 :=
  ⟨.inl rfl, .inr ⟨rfl, 3, rfl, rfl⟩⟩

theorem witness_WrittenObjectReadsBack :
    Entries.wf [(0, .unknown 0xFF), (0xFFFFD, .ins (.ldaF3 ⟨.immediate, .direct, false, 5⟩))] = true
      ∧ Entries.valid [(0, .unknown 0xFF), (0xFFFFD, .ins (.ldaF3 ⟨.immediate, .direct, false, 5⟩))] = true
      ∧ Disjoint [(0, .unknown 0xFF), (0xFFFFD, .ins (.ldaF3 ⟨.immediate, .direct, false, 5⟩))]
      ∧ (∀ q ∈ [(0, Entry.unknown 0xFF), (0xFFFFD, .ins (.ldaF3 ⟨.immediate, .direct, false, 5⟩))],
          q.1 + q.2.length ≤ Config.memSize)
      ∧ '\n' ∉ "NAME".toList := ⟨by decide, by decide, ⟨by decide, trivial⟩, by decide, by decide⟩

/-- The displacements -2048 and 2047 (V6). -/
theorem witness_PcRelativeOperandRoundTrip :
    (∃ e, encodeOperand ⟨[], false, 0x800⟩ false "0".toList = .ok e) ∧ resolveToken [] "0".toList = .ok (0, false)
      ∧ (∃ e, encodeOperand ⟨[], false, 3⟩ false "2050".toList = .ok e) ∧ resolveToken [] "2050".toList = .ok (2050, false)
      ∧ (-2048 : Int) ≤ 0 - (0x800 : Word).toNat ∧ (2050 : Int) - (3 : Word).toNat ≤ 2047
      ∧ ¬ (AbsMode.direct = .immediate ∧ (-2048 : Int) ≤ 0 ∧ (0 : Int) ≤ 2047) :=
  ⟨⟨_, rfl⟩, by decide, ⟨_, rfl⟩, by decide, by decide, by decide, by decide⟩

/-- Immediates at the ends of the range, displacements in it and outside it, format-4 values at the ends of theirs. -/
theorem witness_EncoderModePriority :
    ((-2048 : Int) ≤ -2048 ∧ (2047 : Int) ≤ 2047)
      ∧ (¬ (AbsMode.immediate = .immediate ∧ (-2048 : Int) ≤ 2048 ∧ (2048 : Int) ≤ 2047) ∧ (-2048 : Int) ≤ 2048 - 1
        ∧ (2048 : Int) - 1 ≤ 2047)
      ∧ ¬ ((-2048 : Int) ≤ 2048 - 0 ∧ (2048 : Int) - 0 ≤ 2047)
      ∧ resolveToken [] "0xFFFFF".toList = .ok (0xFFFFF, false) ∧ (0xFFFFF : Int) ≤ 0xFFFFF
      ∧ resolveToken [] "0x100000".toList = .ok (0x100000, false) ∧ ¬ (0 ≤ (0x100000 : Int) ∧ (0x100000 : Int) ≤ 0xFFFFF) := by
  decide

/-- An active Run with a stop request; without one, before a Step that halts, one that fails, and one that does neither. -/
theorem witness_RunEndsForThreeReasons :
    (halted.startRun.requestStop.control.running = true ∧ halted.startRun.requestStop.control.stopRequested = true)
      ∧ (halted.startRun.control.running = true ∧ halted.startRun.control.stopRequested = false)
      ∧ (∃ t, step halted.startRun = .next t ∧ t.control.status = .halted)
      ∧ (∃ t, step foreign.startRun = .next t ∧ t.trace.error ≠ none)
      ∧ ∃ t, step lastLda.startRun = .next t ∧ t.trace.error = none ∧ t.control.status ≠ .halted :=
  ⟨by decide, by decide, ⟨_, rfl, rfl⟩, ⟨_, rfl, by decide⟩, _, rfl, rfl, by decide⟩

theorem witness_CommandsWaitDuringRun :
    ((⟨halted.startRun, []⟩ : Session).core.control.running = true ∧ Command.reset ≠ .stop)
      ∧ ((⟨halted, []⟩ : Session).core.control.running = false ∧ (⟨halted, []⟩ : Session).pending = []) := by decide

end Sys2Proof.Tests
end

section
/-! Proofs about the state (spec/10_state.md). One frame says what an instruction may touch: the registers its rule
lists, the bytes of memory, the status. It is proved once for the shared effects, then for every operation, then for
`exec`. That each register is written only by its instructions, and that every Step keeps the invariant, are read off
it. -/

namespace Sys2Proof.Machine

open Sys2Proof.Claims

/-! ## Registers -/

/-- A by-id read gives what the by-id write put there; in F the zeros that fill it up stand below (R22, R23, D28). -/
theorem Regs.get_set (r : Regs) (n : Reg) (v : Word) : (r.set n v).get n = v := by
  cases n with
  | F => exact BitVec.extractLsb'_append_eq_left
  | A | X | L | B | S | T | PC | SW => rfl

theorem sameRegister_refl (r : Reg) (a : Regs) : SameRegister r a a := by cases r <;> rfl

theorem sameRegister_trans {r : Reg} {a b c : Regs} (hab : SameRegister r a b) (hbc : SameRegister r b c) :
    SameRegister r a c := by
  cases r <;> exact Eq.trans hab hbc

/-- A write leaves every other register as it was, F with all its 48 bits (R23). -/
theorem sameRegister_set {r n : Reg} (h : r ≠ n) (a : Regs) (v : Word) : SameRegister r (a.set n v) a := by
  revert h
  cases r <;> cases n <;> simp [SameRegister]

/-! ## The frame of an instruction -/

/-- Of the registers only those listed differ; image, loader, run bits and what the trace says of the fetch are the
same, and a canonical memory is still canonical. -/
structure WritesWithin (w : List Reg) (s t : State) : Prop where
  regs : ∀ r, r ∉ w → SameRegister r t.regs s.regs
  mem : s.mem.wf = true → t.mem.wf = true
  image : t.image = s.image
  loader : t.loader = s.loader
  control : t.control = { s.control with status := t.control.status }
  fetched : t.trace.a0 = s.trace.a0 ∧ t.trace.entry = s.trace.entry

/-- The frame at the end of a Step, where the status is Idle or Halted (R31). -/
structure FinishesWithin (w : List Reg) (s t : State) : Prop extends WritesWithin w s t where
  status : t.control.status = .idle ∨ t.control.status = .halted

section
variable {w : List Reg} {s t u : State}

theorem WritesWithin.refl (w : List Reg) (s : State) : WritesWithin w s s where
  regs r _ := sameRegister_refl r _
  mem := id
  image := rfl
  loader := rfl
  control := rfl
  fetched := ⟨rfl, rfl⟩

theorem WritesWithin.trans (hst : WritesWithin w s t) (htu : WritesWithin w t u) : WritesWithin w s u where
  regs r hr := sameRegister_trans (htu.regs r hr) (hst.regs r hr)
  mem := htu.mem ∘ hst.mem
  image := htu.image.trans hst.image
  loader := htu.loader.trans hst.loader
  control := by rw [htu.control, hst.control]
  fetched := ⟨htu.fetched.1.trans hst.fetched.1, htu.fetched.2.trans hst.fetched.2⟩

theorem WritesWithin.setReg (h : WritesWithin w s t) {n : Reg} (hn : n ∈ w) (v : Word) :
    WritesWithin w s (t.setReg n v) :=
  h.trans { WritesWithin.refl w t with regs := fun _ hr => sameRegister_set (ne_of_mem_of_not_mem hn hr).symm _ _ }

theorem WritesWithin.setCompare (h : WritesWithin w s t) (hsw : Reg.SW ∈ w) (a b : Word) :
    WritesWithin w s (t.setCompare a b) :=
  h.setReg hsw _

theorem WritesWithin.setMem (h : WritesWithin w s t) {a : Nat} {bytes : List Byte} {m : Memory}
    (hm : memWriteBytes t.mem a bytes = .ok m) : WritesWithin w s (t.setMem m) :=
  h.trans { WritesWithin.refl w t with mem := fun hw => memWriteBytes_wf hw hm }

/-! A device call, a note in the trace and the end of a Step touch no register, so their frame is that of the state
unchanged, field by field. -/

theorem WritesWithin.callRead (h : WritesWithin w s t) (d : Byte) : WritesWithin w s (t.callRead d) :=
  h.trans { WritesWithin.refl w t with }

theorem WritesWithin.callWrite (h : WritesWithin w s t) (d b : Byte) : WritesWithin w s (t.callWrite d b) :=
  h.trans { WritesWithin.refl w t with }

theorem WritesWithin.noteAddr (h : WritesWithin w s t) (a : Word) : WritesWithin w s (t.noteAddr a) :=
  h.trans { WritesWithin.refl w t with }

theorem WritesWithin.noteUnimplemented (h : WritesWithin w s t) : WritesWithin w s t.noteUnimplemented :=
  h.trans { WritesWithin.refl w t with }

theorem WritesWithin.endStep (h : WritesWithin w s t) {st : Status} (hst : st = .idle ∨ st = .halted) :
    FinishesWithin w s (t.endStep st) where
  toWritesWithin := h.trans { WritesWithin.refl w t with control := rfl }
  status := hst

theorem WritesWithin.retire (h : WritesWithin w s t) : FinishesWithin w s t.retire :=
  h.endStep (.inl rfl)

theorem WritesWithin.report (h : WritesWithin w s t) (e : StepError) : FinishesWithin w s (t.report e) where
  toWritesWithin := h.trans { WritesWithin.refl w t with control := rfl }
  status := .inl rfl

theorem report_finishes (w : List Reg) (s : State) (e : StepError) : FinishesWithin w s (s.report e) :=
  (WritesWithin.refl w s).report e

theorem WritesWithin.finish (h : WritesWithin w s t) (htu : FinishesWithin w t u) : FinishesWithin w s u where
  toWritesWithin := h.trans htu.toWritesWithin
  status := htu.status

/-! ## The frames of the shared effects -/

/-- Reporting is always in the frame, so only the value's continuation has to be. -/
theorem attempt_finishes {α : Type} {r : Except StepError α} {k : α → Out} (h : s.attempt r k = .next t)
    (hk : ∀ v, r = .ok v → k v = .next t → FinishesWithin w s t) : FinishesWithin w s t := by
  rcases State.attempt_cases h with ⟨v, hv, hkv⟩ | ⟨e, -, rfl⟩
  · exact hk v hv hkv
  · exact report_finishes w s e

theorem loadWord_finishes {r : Reg} {abs : AbsMode} {addr : Word} (h : loadWord r abs addr s = .next t) :
    FinishesWithin [r] s t := by
  rcases loadWord_cases h with ⟨v, -, rfl⟩ | ⟨e, -, rfl⟩
  · exact ((WritesWithin.refl _ s).setReg (by simp) v).retire
  · exact report_finishes _ s e

theorem storeWord_finishes {r : Reg} {abs : AbsMode} {addr : Word} (h : storeWord r abs addr s = .next t) :
    FinishesWithin [] s t := by
  rcases storeWord_cases h with ⟨a, m, -, hm, rfl⟩ | ⟨e, rfl⟩
  · exact ((WritesWithin.refl _ s).setMem hm).retire
  · exact report_finishes _ s e

theorem accumulate_finishes {f : Word → Word → Except StepError Word} {abs : AbsMode} {addr : Word}
    (h : accumulate f abs addr s = .next t) : FinishesWithin [.A] s t := by
  rcases accumulate_cases h with ⟨v, x, -, -, rfl⟩ | ⟨e, rfl⟩
  · exact ((WritesWithin.refl _ s).setReg (by simp) x).retire
  · exact report_finishes _ s e

/-- Only the register of the second id is written (R134 to R137, R141; D11). -/
theorem combineRegs_finishes {f : Word → Word → Except StepError Word} {r1 r2 : BitVec 4}
    (h : combineRegs f r1 r2 s = .next t) : FinishesWithin (idRegisters r2) s t := by
  rcases combineRegs_cases h with ⟨a, b, x, -, hb, -, rfl⟩ | ⟨e, rfl⟩
  · exact ((WritesWithin.refl _ s).setReg (by simp [idRegisters, hb]) x).retire
  · exact report_finishes _ s e

theorem branchIf_finishes {taken : Bool} {addr : Word} (hsu : WritesWithin w s u) (hpc : Reg.PC ∈ w)
    (h : branchIf taken addr u = .next t) : FinishesWithin w s t := by
  obtain rfl := next_inj h
  cases taken with
  | true => exact (hsu.setReg hpc addr).retire
  | false => exact hsu.retire

theorem noop_finishes (h : noop s = .next t) : FinishesWithin [] s t := by
  obtain rfl := next_inj h
  exact (WritesWithin.refl _ s).noteUnimplemented.retire

/-! ## The frame of every operation -/

theorem opLdch_finishes {abs : AbsMode} {addr : Word} (h : opLdch abs addr s = .next t) : FinishesWithin [.A] s t :=
  attempt_finishes h fun _ _ hk => next_inj hk ▸ ((WritesWithin.refl _ s).setReg (by simp) _).retire

theorem opStch_finishes {abs : AbsMode} {addr : Word} (h : opStch abs addr s = .next t) : FinishesWithin [] s t :=
  attempt_finishes h fun _ _ hk => attempt_finishes hk fun _ hm hk =>
    next_inj hk ▸ ((WritesWithin.refl _ s).setMem hm).retire

theorem opComp_finishes {abs : AbsMode} {addr : Word} (h : opComp abs addr s = .next t) : FinishesWithin [.SW] s t :=
  attempt_finishes h fun _ _ hk => next_inj hk ▸ ((WritesWithin.refl _ s).setCompare (by simp) _ _).retire

theorem opTd_finishes {abs : AbsMode} {addr : Word} (h : opTd abs addr s = .next t) : FinishesWithin [.SW] s t :=
  attempt_finishes h fun _ _ hk => next_inj hk ▸ ((WritesWithin.refl _ s).setReg (by simp) _).retire

/-- The increment of X and the compare after it, of TIX and TIXR. -/
theorem incrementCompare_finishes (s : State) (x a b : Word) :
    FinishesWithin [.X, .SW] s ((s.setReg .X x).setCompare a b).retire :=
  (((WritesWithin.refl _ s).setReg (by simp) x).setCompare (by simp) a b).retire

theorem opTix_finishes {abs : AbsMode} {addr : Word} (h : opTix abs addr s = .next t) :
    FinishesWithin [.X, .SW] s t :=
  attempt_finishes h fun _ _ hk => next_inj hk ▸ incrementCompare_finishes s _ _ _

theorem opJ_finishes {a0 : Word} {abs : AbsMode} {addr : Word} (h : opJ a0 abs addr s = .next t) :
    FinishesWithin [.PC] s t := by
  obtain rfl := next_inj h
  exact ((WritesWithin.refl _ s).setReg (by simp) addr).endStep (by split <;> simp)

theorem opRd_finishes {abs : AbsMode} {addr : Word} (h : opRd abs addr s = .next t) : FinishesWithin [.A] s t := by
  rcases opRd_cases h with ⟨v, b, -, -, rfl⟩ | ⟨v, -, -, rfl⟩ | ⟨e, -, rfl⟩
  · exact (((WritesWithin.refl _ s).callRead _).setReg (by simp) _).retire
  · exact ((WritesWithin.refl _ s).callRead _).report _
  · exact report_finishes _ s e

theorem opWd_finishes {abs : AbsMode} {addr : Word} (h : opWd abs addr s = .next t) : FinishesWithin [] s t := by
  rcases opWd_cases h with ⟨v, -, -, rfl⟩ | ⟨v, -, -, rfl⟩ | ⟨e, -, rfl⟩
  · exact ((WritesWithin.refl _ s).callWrite _ _).retire
  · exact ((WritesWithin.refl _ s).callWrite _ _).report _
  · exact report_finishes _ s e

/-- Every F3/4 operation, its address resolved, keeps to the registers that files 43 to 47 list for it. -/
theorem op34Effect_finishes {a0 : Word} {op : Op34} {abs : AbsMode} {addr : Word}
    (h : op34Effect a0 op abs addr s = .next t) : FinishesWithin (op34MayWrite op) s t := by
  cases op with
  | lda | ldx | ldl | ldb | lds | ldt => exact loadWord_finishes h
  | ldch => exact opLdch_finishes h
  | sta | stx | stl | stb | sts | stt | stsw => exact storeWord_finishes h
  | stch => exact opStch_finishes h
  | add | sub | mul | div | and | or =>
    unfold op34Effect at h
    exact accumulate_finishes h
  | comp => exact opComp_finishes h
  | tix => exact opTix_finishes h
  | j => exact opJ_finishes (abs := abs) h
  | jeq | jgt | jlt | rsub => exact branchIf_finishes (.refl _ s) (by simp [op34MayWrite]) h
  | jsub =>
    have hlink : WritesWithin [.L, .PC] s (s.setReg .L s.regs.PC) :=
      (WritesWithin.refl _ s).setReg (by simp) _
    exact branchIf_finishes hlink (by simp [op34MayWrite]) h
  | rd => exact opRd_finishes h
  | wd => exact opWd_finishes h
  | td => exact opTd_finishes h
  | addf | subf | mulf | divf | compf | ldf | stf | lps | sti | ssk => exact noop_finishes h

/-- Every format-2 operation keeps to the registers that files 43 and 47 list for it. -/
theorem op2Effect_finishes {op : Op2} {r1 r2 : BitVec 4} (h : op2Effect r1 r2 op s = .next t) :
    FinishesWithin (mayWrite (op.instr r1 r2)) s t := by
  cases op with
  | addr | subr | mulr | divr | rmo =>
    unfold op2Effect at h
    exact combineRegs_finishes h
  | compr =>
    have hcompare (a b : Word) : FinishesWithin [.SW] s (s.setCompare a b).retire :=
      ((WritesWithin.refl _ s).setCompare (by simp) a b).retire
    exact attempt_finishes h fun _ _ hk => attempt_finishes hk fun _ _ hk => next_inj hk ▸ hcompare _ _
  | clear =>
    refine attempt_finishes h fun r hr hk => ?_
    have hmem : r ∈ idRegisters r1 := by simp [idRegisters, lookupReg_spec hr]
    exact next_inj hk ▸ ((WritesWithin.refl _ s).setReg hmem 0).retire
  | tixr => exact attempt_finishes h fun _ _ hk => next_inj hk ▸ incrementCompare_finishes s _ _ _
  | shiftl | shiftr | svc => exact noop_finishes h

/-- The frame of a format with an address: b = p = 1 reports, and the effect starts where only the address is noted. -/
theorem runMem_finishes {len : Nat} {m : Mode} {effect : AbsMode → Word → State → Out}
    (h : runMem len m effect s = .next t)
    (he : ∀ addr u, effect m.abs addr u = .next t → FinishesWithin w u t) :
    FinishesWithin w (s.advance len) t := by
  rcases runMem_cases h with ⟨-, rfl⟩ | ⟨addr, -, hk⟩
  · exact report_finishes w _ _
  · exact ((WritesWithin.refl w _).noteAddr addr).finish (he addr _ hk)

/-- The frame of every instruction, from the state in which PC is advanced (R25). -/
theorem exec_finishes {i : Instr} (h : exec i s = .next t) : FinishesWithin (mayWrite i) (s.advance i.length) t := by
  rcases instr_cases i with ⟨op, rfl⟩ | ⟨op, r1, r2, rfl⟩ | ⟨op, m, rfl⟩ | ⟨op, m, rfl⟩ | ⟨op, m, rfl⟩
  · rw [exec_f1] at h
    simpa [Instr.length, Shape.format, Format.length, mayWrite] using noop_finishes h
  · rw [exec_f2] at h
    simpa [Instr.length, Shape.format, Format.length] using op2Effect_finishes h
  · rw [exec_sic] at h
    simpa [Instr.length, Shape.format, Format.length, mayWrite] using runMem_finishes h fun _ _ => op34Effect_finishes
  · rw [exec_f3] at h
    simpa [Instr.length, Shape.format, Format.length, mayWrite] using runMem_finishes h fun _ _ => op34Effect_finishes
  · rw [exec_f4] at h
    simpa [Instr.length, Shape.format, Format.length, mayWrite] using runMem_finishes h fun _ _ => op34Effect_finishes

end

/-! ## The invariant of the states between Steps -/

/-- What the invariant asks of the image: canonical entries, and the last loaded byte inside memory. -/
def Image.Canonical (img : Image) : Prop :=
  img.entries.wf = true ∧ ∀ l, img.lastByteAddr = some l → l < Config.memSize

/-- The invariant but for the status, which is Fetching or Executing inside a Step. -/
structure State.Canonical (s : State) : Prop where
  mem : s.mem.wf = true
  image : s.image.Canonical
  loader : s.loader = Loader.none

theorem inv_iff (s : State) :
    Inv s ↔ s.Canonical ∧ (s.control.status = .idle ∨ s.control.status = .halted) := by
  constructor
  · rintro ⟨hmem, hentries, hloader, hstatus, hlast⟩
    exact ⟨⟨hmem, ⟨hentries, hlast⟩, hloader⟩, hstatus⟩
  · rintro ⟨⟨hmem, ⟨hentries, hlast⟩, hloader⟩, hstatus⟩
    exact ⟨hmem, hentries, hloader, hstatus, hlast⟩

/-- A resync replaces entries in canonical form and leaves the last loaded byte alone (R107). -/
theorem resync_canonical {m : Memory} {img img' : Image} {a : Nat} {e : Entry} (hi : img.Canonical)
    (h : resync m img a = .ok (e, img')) : img'.Canonical := by
  refine ⟨resync_wf hi.1 h, ?_⟩
  obtain ⟨-, more, -, rfl⟩ := resync_spec h
  exact hi.2

theorem State.Canonical.of_image {s t : State} (hs : s.Canonical) (hmem : t.mem = s.mem) (hloader : t.loader = s.loader)
    (himage : t.image.Canonical) : t.Canonical where
  mem := hmem ▸ hs.mem
  image := himage
  loader := hloader.trans hs.loader

theorem fetch_got_canonical {s s' : State} {i : Instr} (hs : s.Canonical) (h : fetch s = .got i s') :
    s'.Canonical := by
  obtain ⟨-, hmem, hloader, -, -, -, -, hhit | hmiss⟩ := fetch_got h
  · exact hs.of_image hmem hloader (hhit.1 ▸ hs.image)
  · exact hs.of_image hmem hloader (resync_canonical hs.image hmiss.2.2)

theorem fetch_failed_canonical {s s' : State} {e : StepError} (hs : s.Canonical) (h : fetch s = .failed e s') :
    s'.Canonical := by
  obtain ⟨-, hmem, hloader, -, -, -, hsame | ⟨-, -, b, hresync⟩⟩ := fetch_failed h
  · exact hs.of_image hmem hloader (hsame ▸ hs.image)
  · exact hs.of_image hmem hloader (resync_canonical hs.image hresync)

theorem State.Canonical.advance {s : State} (hs : s.Canonical) (n : Nat) : (s.advance n).Canonical :=
  hs.of_image rfl rfl hs.image

/-- A state that is canonical has the invariant where the Step ends. -/
theorem FinishesWithin.inv {w : List Reg} {s t : State} (h : FinishesWithin w s t) (hs : s.Canonical) : Inv t :=
  (inv_iff t).mpr ⟨⟨h.mem hs.mem, h.image ▸ hs.image, h.loader.trans hs.loader⟩, h.status⟩

/-- Settles O42: the fetch keeps the image canonical, and every instruction keeps to its frame. -/
theorem stepKeepsInvariant : Obligations.StepKeepsInvariant := by
  intro s t hs h
  have hcanonical : s.Canonical := ((inv_iff s).mp hs).1
  rcases step_cases h with ⟨i, s', hf, he⟩ | ⟨e, s', hf, rfl⟩
  · have hframe : FinishesWithin (mayWrite i) (s'.advance i.length) t := exec_finishes he
    exact hframe.inv ((fetch_got_canonical hcanonical hf).advance i.length)
  · exact (report_finishes [] s' e).inv (fetch_failed_canonical hcanonical hf)

/-- Settles O48: the advance of PC touches PC alone, and what follows it keeps to the frame. -/
theorem registersWrittenOnlyByTheirInstructions : Obligations.RegistersWrittenOnlyByTheirInstructions := by
  intro i s t h
  have hframe : FinishesWithin (mayWrite i) (s.advance i.length) t := exec_finishes h
  constructor
  · intro r hpc hr
    have hadvance : SameRegister r (s.advance i.length).regs s.regs := sameRegister_set hpc s.regs _
    exact sameRegister_trans (hframe.regs r hr) hadvance
  · exact hframe.regs .PC

/-- Settles O11: the ids by the table, reads and writes by the laws of each register, F by its zero fill. -/
theorem registersById : Obligations.RegistersById :=
  ⟨by decide, fun r => by simp, fun r v => by simp, Regs.get_set⟩

/-! ## The reset state (R36) -/

theorem reset_inv : Inv State.reset :=
  (inv_iff _).mpr ⟨⟨State.reset_mem_wf, ⟨rfl, by simp [State.reset, Image.empty]⟩, rfl⟩, .inl rfl⟩

/-- An image without entries agrees with every memory. -/
theorem coherent_of_no_entries {s : State} (h : s.image.entries = []) : Coherent s := by
  intro a e he
  simp [h] at he

/-- Settles O43: the empty image is coherent, and an Idle machine is not Halted. -/
theorem resetHasInvariant : Obligations.ResetHasInvariant :=
  ⟨reset_inv, coherent_of_no_entries rfl, fun h => absurd h (by decide)⟩

end Sys2Proof.Machine
end

section
/-! Proofs about memory (spec/20_memory.md). Every access is whole or refused; a word written is read back; and of the
instructions only the eight stores change memory. What an instruction does to the image is read off its frame. -/

namespace Sys2Proof.Machine

open Sys2Proof.Claims

/-! ## A word written is read back (R40, R42) -/

/-- Settles O9: the law of the word write gives the three bytes, and they are the word. -/
theorem wordWriteThenRead : Obligations.WordWriteThenRead := by
  intro m a v hm hfits
  have hwrite : memWriteWord m a v = .ok (m.setBytes a (wordBytes v)) := memWriteBytes_ok hfits
  obtain ⟨-, hwf, hhigh, hmiddle, hlow, hframe⟩ := memWriteWord_spec hm hwrite
  have hread : memReadWord (m.setBytes a (wordBytes v)) a = .ok v := by
    rw [memReadWord_ok hfits, hhigh, hmiddle, hlow, word_of_bytes]
  exact ⟨_, hwrite, hwf, hread, hhigh, hmiddle, hlow, hframe⟩

/-! ## An access is whole or refused (R41 to R43, D7) -/

/-- The two answers of an access of `n` bytes, said by where its last byte lies. -/
theorem access_refused_iff {α : Type} {r : Except StepError α} {a n : Nat} {v : α}
    (hok : a + n ≤ Config.memSize → r = .ok v)
    (herror : ¬ a + n ≤ Config.memSize → r = .error (.addressError a n)) :
    (r = .error (.addressError a n) ↔ a + n - 1 > 0xFFFFF) ∧ (a + n - 1 ≤ 0xFFFFF → r = .ok v) := by
  have hlast : a + n ≤ Config.memSize ↔ a + n - 1 ≤ 0xFFFFF := by
    unfold Config.memSize
    omega
  rw [hlast] at hok herror
  refine ⟨⟨fun hrefused => ?_, fun habove => herror (Nat.not_le.mpr habove)⟩, hok⟩
  by_contra hbelow
  have hdone : r = .ok v := hok (Nat.not_lt.mp hbelow)
  simp [hdone] at hrefused

theorem memReadWide_ok {m : Memory} {a : Nat} (h : a + 6 ≤ Config.memSize) :
    memReadWide m a = .ok
      (m.get a ++ m.get (a + 1) ++ m.get (a + 2) ++ m.get (a + 3) ++ m.get (a + 4) ++ m.get (a + 5)) := by
  simp [memReadWide, h]

theorem memReadWide_error {m : Memory} {a : Nat} (h : ¬ a + 6 ≤ Config.memSize) :
    memReadWide m a = .error (.addressError a 6) := by
  simp [memReadWide, h]

/-- A write is refused as a read of its width is, whatever the bytes (R42, R43). -/
theorem memWriteBytes_refused_iff (m : Memory) (a : Nat) (bytes : List Byte) :
    (memWriteBytes m a bytes = .error (.addressError a bytes.length) ↔ a + bytes.length - 1 > 0xFFFFF)
      ∧ (a + bytes.length - 1 ≤ 0xFFFFF → ∃ m', memWriteBytes m a bytes = .ok m') := by
  obtain ⟨hrefused, hdone⟩ := access_refused_iff (memWriteBytes_ok (m := m)) memWriteBytes_error
  exact ⟨hrefused, fun hlast => ⟨_, hdone hlast⟩⟩

/-- Settles O10: each read by its two equations, and the three writes as the one write of a list of bytes. -/
theorem accessesOutsideMemoryRefusedWhole : Obligations.AccessesOutsideMemoryRefusedWhole := by
  intro m a b w d
  obtain ⟨hwide, hwideDone⟩ := access_refused_iff (memReadWide_ok (m := m) (a := a)) memReadWide_error
  refine ⟨?readByte, ?readWord, ⟨hwide, fun hlast => ⟨_, hwideDone hlast⟩⟩, ?writeByte, ?writeWord, ?writeWide⟩
  case readByte => exact access_refused_iff memReadByte_ok memReadByte_error
  case readWord => exact access_refused_iff memReadWord_ok memReadWord_error
  case writeByte => exact memWriteBytes_refused_iff m a [b]
  case writeWord => exact memWriteBytes_refused_iff m a (wordBytes w)
  case writeWide => exact memWriteBytes_refused_iff m a (wideBytes d)

/-! ## The image is not touched (R52, R53) -/

/-- Settles O46: the advance of PC keeps image, loader, run bits and what the trace says of the fetch, and so does the
frame of the instruction. -/
theorem storesNeverChangeTheImage : Obligations.StoresNeverChangeTheImage := by
  intro i s t h
  have hframe : FinishesWithin (mayWrite i) (s.advance i.length) t := exec_finishes h
  obtain ⟨ha0, hentry⟩ := hframe.fetched
  have hcontrol := hframe.control
  exact ⟨hframe.image, hframe.loader, by rw [hcontrol]; rfl, by rw [hcontrol]; rfl, hentry, ha0⟩

/-! ## Only the stores change memory (R45) -/

/-- The stores (44_load_store.md R153 to R160, STSW by D12). -/
def storeOps : List Op34 := [.sta, .stx, .stl, .stb, .sts, .stt, .stsw, .stch]

section
variable {s t : State}

/-- Reporting leaves memory alone, so only the value's continuation has to. -/
theorem attempt_mem {α : Type} {r : Except StepError α} {k : α → Out} (h : s.attempt r k = .next t)
    (hk : ∀ v, k v = .next t → t.mem = s.mem) : t.mem = s.mem := by
  rcases State.attempt_cases h with ⟨v, -, hkv⟩ | ⟨e, -, rfl⟩
  · exact hk v hkv
  · simp

theorem loadWord_mem {r : Reg} {abs : AbsMode} {addr : Word} (h : loadWord r abs addr s = .next t) :
    t.mem = s.mem := by
  rcases loadWord_cases h with ⟨v, -, rfl⟩ | ⟨e, -, rfl⟩ <;> simp

theorem accumulate_mem {f : Word → Word → Except StepError Word} {abs : AbsMode} {addr : Word}
    (h : accumulate f abs addr s = .next t) : t.mem = s.mem := by
  rcases accumulate_cases h with ⟨v, x, -, -, rfl⟩ | ⟨e, rfl⟩ <;> simp

theorem combineRegs_mem {f : Word → Word → Except StepError Word} {r1 r2 : BitVec 4}
    (h : combineRegs f r1 r2 s = .next t) : t.mem = s.mem := by
  rcases combineRegs_cases h with ⟨a, b, x, -, -, -, rfl⟩ | ⟨e, rfl⟩ <;> simp

theorem branchIf_mem {taken : Bool} {addr : Word} (h : branchIf taken addr s = .next t) : t.mem = s.mem := by
  obtain rfl := next_inj h
  cases taken <;> simp

theorem noop_mem (h : noop s = .next t) : t.mem = s.mem := by
  obtain rfl := next_inj h
  simp

theorem opRd_mem {abs : AbsMode} {addr : Word} (h : opRd abs addr s = .next t) : t.mem = s.mem := by
  rcases opRd_cases h with ⟨v, b, -, -, rfl⟩ | ⟨v, -, -, rfl⟩ | ⟨e, -, rfl⟩ <;> simp

theorem opWd_mem {abs : AbsMode} {addr : Word} (h : opWd abs addr s = .next t) : t.mem = s.mem := by
  rcases opWd_cases h with ⟨v, -, -, rfl⟩ | ⟨v, -, -, rfl⟩ | ⟨e, -, rfl⟩ <;> simp

/-- Every F3/4 operation but the stores, its address resolved, leaves memory as it was. -/
theorem op34Effect_mem {a0 : Word} {op : Op34} {abs : AbsMode} {addr : Word} (hop : op ∉ storeOps)
    (h : op34Effect a0 op abs addr s = .next t) : t.mem = s.mem := by
  cases op with
  | sta | stx | stl | stb | sts | stt | stsw | stch => exact absurd (by decide) hop
  | lda | ldx | ldl | ldb | lds | ldt => exact loadWord_mem h
  | add | sub | mul | div | and | or =>
    unfold op34Effect at h
    exact accumulate_mem h
  | ldch | comp | tix | td => exact attempt_mem h fun _ hk => next_inj hk ▸ rfl
  | j => exact next_inj h ▸ rfl
  | jeq | jgt | jlt | rsub => exact branchIf_mem h
  | jsub => exact branchIf_mem (s := s.setReg .L s.regs.PC) h
  | rd => exact opRd_mem h
  | wd => exact opWd_mem h
  | addf | subf | mulf | divf | compf | ldf | stf | lps | sti | ssk => exact noop_mem h

/-- No format-2 operation touches memory. -/
theorem op2Effect_mem {op : Op2} {r1 r2 : BitVec 4} (h : op2Effect r1 r2 op s = .next t) : t.mem = s.mem := by
  cases op with
  | addr | subr | mulr | divr | rmo =>
    unfold op2Effect at h
    exact combineRegs_mem h
  | compr => exact attempt_mem h fun _ hk => attempt_mem hk fun _ hk => next_inj hk ▸ rfl
  | clear | tixr => exact attempt_mem h fun _ hk => next_inj hk ▸ rfl
  | shiftl | shiftr | svc => exact noop_mem h

/-- In a format with an address the effect starts from the same memory, and b = p = 1 reports (R105, R91). -/
theorem runMem_op34_mem {len : Nat} {m : Mode} {a0 : Word} {op : Op34} (hop : op ∉ storeOps)
    (h : runMem len m (op34Effect a0 op) s = .next t) : t.mem = s.mem := by
  rcases runMem_cases h with ⟨-, rfl⟩ | ⟨addr, -, hk⟩
  · simp
  · simpa using op34Effect_mem hop hk

end

/-- Settles O47: formats 1 and 2 never touch memory, and in the formats with an address only the eight stores do. -/
theorem onlyStoresChangeMemory : Obligations.OnlyStoresChangeMemory := by
  intro i s t h hi
  rcases instr_cases i with ⟨op, rfl⟩ | ⟨op, r1, r2, rfl⟩ | ⟨op, m, rfl⟩ | ⟨op, m, rfl⟩ | ⟨op, m, rfl⟩
  · rw [exec_f1] at h
    simpa using noop_mem h
  · rw [exec_f2] at h
    simpa using op2Effect_mem h
  · rw [exec_sic] at h
    exact runMem_op34_mem (fun hop => hi op hop (.inl ⟨m, by simp⟩)) h
  · rw [exec_f3] at h
    exact runMem_op34_mem (fun hop => hi op hop (.inr (.inl ⟨m, by simp⟩))) h
  · rw [exec_f4] at h
    exact runMem_op34_mem (fun hop => hi op hop (.inr (.inr ⟨m, by simp⟩))) h

end Sys2Proof.Machine
end

section
/-! Proofs about the codec (spec/30_encoding.md). A decode is a classification and a reading of the fields; the bytes of a
valid instruction classify and read as it was written, and bytes that classify are those the fields are written to. -/

namespace Sys2Proof

/-! ## A decode in terms of its bytes -/

@[simp] theorem Instr.ofShape_shape (i : Instr) : Instr.ofShape i.shape = i := by cases i <;> rfl

/-- A decode succeeds when its bytes classify and are all there, and then it reads the fields from them (R61, R66). -/
theorem decode_eq_ok_iff {buf rest : List Byte} {i : Instr} :
    decode buf = .ok (i, rest) ↔ ∃ c, classify (buf.getD 0 0) (buf.getD 1 0) = some c ∧ c.length ≤ buf.length
      ∧ i = .ofShape (decodeOne (buf.getD 0 0) (buf.getD 1 0) (buf.getD 2 0) (buf.getD 3 0) c)
      ∧ rest = buf.drop c.length := by
  cases buf with
  | nil =>
    have hpos (c : Class) : c.length ≠ 0 := c.length_pos.ne'
    simp [decode_nil, hpos]
  | cons b0 bs =>
    have hdrop (c : Class) : (b0 :: bs).drop c.length = bs.drop (c.length - 1) :=
      List.drop_cons c.length_pos
    simp only [List.getD_cons_zero, List.getD_cons_succ, List.length_cons, hdrop]
    rcases decode_cons b0 bs with ⟨hc, he⟩ | ⟨c, hc, hl, he⟩ | ⟨c, hc, hl, he⟩
    · simp only [hc, he, reduceCtorEq, false_and, exists_false]
    · simp only [hc, he, Nat.not_le.mpr hl, Option.some.injEq, exists_eq_left', reduceCtorEq, false_and]
    · simp only [hc, he, hl, Option.some.injEq, exists_eq_left', Except.ok.injEq, Prod.mk.injEq, true_and]
      exact and_congr eq_comm eq_comm

/-! ## Decoding what was encoded -/

/-- A valid instruction decodes from its own bytes alone. -/
theorem decode_encode {i : Instr} (h : i.wellFormed = true) : decode (encode i) = .ok (i, []) := by
  have hwf : i.shape.wellFormed = true := i.wellFormed_eq_shape ▸ h
  have hclass : classify (i.shape.bytes.getD 0 0) (i.shape.bytes.getD 1 0) = some i.shape.cls := by
    have hpad : (i.shape.bytes ++ [0]).getD 1 0 = i.shape.bytes.getD 1 0 := by cases i.shape <;> rfl
    exact hpad ▸ classify_bytes i.shape hwf 0
  have hfields := decodeOne_bytes i.shape []
  rw [List.append_nil] at hfields
  refine decode_eq_ok_iff.mpr ⟨i.shape.cls, hclass, ?_, ?_, ?_⟩
  · simp [encode]
  · rw [encode, hfields, Instr.ofShape_shape]
  · simp [encode]

/-! ## Encoding what was decoded -/

/-- What the two bytes an instruction is classified by say of its class (R61). -/
def Class.Fits (b0 b1 : Byte) : Class → Prop
  | .f1 op => op.code = b0
  | .f2 op => op.code = b0
  | .sic op => op.code = b0 &&& 0xFC ∧ b0.extractLsb' 0 2 = 0
  | .f3 op => op.code = b0 &&& 0xFC ∧ b0.extractLsb' 0 2 ≠ 0 ∧ b1.getLsbD 4 = false
  | .f4 op => op.code = b0 &&& 0xFC ∧ b0.extractLsb' 0 2 ≠ 0 ∧ b1.getLsbD 4 = true

/-- The classifier goes through the tables, then the bits n and i, then the bit e. -/
theorem classify_fits {b0 b1 : Byte} {c : Class} (h : classify b0 b1 = some c) : c.Fits b0 b1 := by
  unfold classify at h
  split at h
  next op h1 => exact Option.some.inj h ▸ Op1.code_of_ofByte? h1
  next =>
    split at h
    next op h2 => exact Option.some.inj h ▸ Op2.code_of_ofByte? h2
    next =>
      split at h
      next => cases h
      next op h34 =>
        have hcode := Op34.code_of_ofByte? h34
        split at h
        next hni => exact Option.some.inj h ▸ ⟨hcode, hni⟩
        next hni =>
          split at h
          next he => exact Option.some.inj h ▸ ⟨hcode, hni, he⟩
          next he => exact Option.some.inj h ▸ ⟨hcode, hni, eq_false_of_ne_true he⟩

/-- An instruction read in format 3 or 4 has n and i not both 0, so it is valid (R69). -/
theorem decodeOne_wellFormed {b0 b1 : Byte} {c : Class} (h : c.Fits b0 b1) (b2 b3 : Byte) :
    (decodeOne b0 b1 b2 b3 c).wellFormed = true := by
  cases c with
  | f1 | f2 | sic => rfl
  | f3 | f4 =>
    obtain ⟨-, hni, -⟩ := h
    exact bne_iff_ne.mpr (AbsMode.ofBits_ne_sic hni)

/-- The first byte is put together again from the opcode and the bits n and i. -/
theorem opcodeByte_of_byte {op : Op34} {b : Byte} (h : op.code = b &&& 0xFC) :
    opcodeByte op (.ofBits (b.extractLsb' 0 2)) = b := by
  rw [opcodeByte, AbsMode.bits_ofBits, h, byte_of_opcode_ni]

/-- The upper and the middle part of three joined bit vectors. -/
theorem extract_high_middle {n k l : Nat} (a : BitVec n) (b : BitVec k) (c : BitVec l) :
    (a ++ b ++ c).extractLsb' (k + l) n = a ∧ (a ++ b ++ c).extractLsb' l k = b := by
  constructor
  · apply BitVec.eq_of_getLsbD_eq
    intro i hi
    have hsum : k + l + i = l + (k + i) := by omega
    simp [BitVec.getLsbD_append, hi, hsum]
  · apply BitVec.eq_of_getLsbD_eq
    intro i hi
    simp [BitVec.getLsbD_append, hi]

/-- The fields read from the bytes of a class are written to the same bytes (R66, R68). -/
theorem bytes_decodeOne {b0 b1 : Byte} {c : Class} (h : c.Fits b0 b1) (b2 b3 : Byte) :
    (decodeOne b0 b1 b2 b3 c).bytes = [b0, b1, b2, b3].take c.length := by
  cases c with
  | f1 op => exact congrArg (fun b => [b]) h
  | f2 op =>
    have hcode : op.code = b0 := h
    simp only [decodeOne, Shape.bytes, hcode, nibbles_of_byte, Class.length, List.take]
  | sic op =>
    obtain ⟨hcode, hni⟩ := h
    have hb0 : op.code = b0 := by
      rw [← opcodeByte_of_byte hcode, hni, ← opcodeByte_sic op]
      rfl
    have hb1 := sicByte_of_byte b1
    simp only [decodeOne, SicOperand.ofBytes, Shape.bytes, hb0, hb1, extract_high, extract_low, Class.length, List.take]
  | f3 op =>
    obtain ⟨hcode, -, he⟩ := h
    have hb1 := modeByte_of_byte b1
    rw [he] at hb1
    simp only [decodeOne, F3Operand.ofBytes, Shape.bytes, opcodeByte_of_byte hcode, extract_high, extract_low, hb1,
      Class.length, List.take]
  | f4 op =>
    obtain ⟨hcode, -, he⟩ := h
    have hb1 := modeByte_of_byte b1
    rw [he] at hb1
    obtain ⟨hhigh, hmiddle⟩ := extract_high_middle (b1.extractLsb' 0 4) b2 b3
    simp only [decodeOne, F4Operand.ofBytes, Shape.bytes, opcodeByte_of_byte hcode, hhigh, hmiddle, extract_low, hb1,
      Class.length, List.take]

/-- The bytes of one instruction (R55: at most four), named one by one. -/
theorem take_getD {n : Nat} {buf : List Byte} (hn : n ≤ 4) (hl : n ≤ buf.length) :
    [buf.getD 0 0, buf.getD 1 0, buf.getD 2 0, buf.getD 3 0].take n = buf.take n := by
  apply List.ext_getElem?
  intro k
  by_cases hk : k < n
  · have hk4 : k < 4 := by omega
    have hkl : k < buf.length := by omega
    rw [List.getElem?_take_of_lt hk, List.getElem?_take_of_lt hk]
    interval_cases k <;> simp [hkl]
  · rw [List.getElem?_take_eq_none (by omega), List.getElem?_take_eq_none (by omega)]

/-- What the decoder reads is valid, and its encoding is the bytes it was read from. -/
theorem encode_of_decode {buf rest : List Byte} {i : Instr} (h : decode buf = .ok (i, rest)) :
    i.wellFormed = true ∧ encode i ++ rest = buf := by
  obtain ⟨c, hclass, hl, rfl, rfl⟩ := decode_eq_ok_iff.mp h
  have hfits := classify_fits hclass
  constructor
  · rw [Instr.wellFormed_eq_shape, Instr.shape_ofShape]
    exact decodeOne_wellFormed hfits _ _
  · rw [encode, Instr.shape_ofShape, bytes_decodeOne hfits, take_getD c.length_le hl, List.take_append_drop]

/-- Settles O1: the bytes alone decode, and more bytes change nothing; what was decoded is encoded byte by byte. -/
theorem decodeEncodeRoundTrip : Obligations.DecodeEncodeRoundTrip :=
  ⟨fun _ rest h => decode_append (decode_encode h) rest, fun _ _ _ => encode_of_decode⟩

end Sys2Proof
end

section
/-! Proofs about the arithmetic unit (spec/40_alu_word24.md). Product and quotient are the library's operations on bit
vectors, so what a mask does to them is said once; a comparison has three outcomes; and the digits of a number, read
back one by one, give the number. -/

namespace Sys2Proof.Machine

/-! ## Sum and difference (R76 to R78) -/

theorem add24_toNat (a b : Word) : (add24 a b).toNat = (a.toNat + b.toNat) % 0x1000000 := BitVec.toNat_add a b

/-- The borrow out of the top byte is dropped (R77). -/
theorem sub24_toNat (a b : Word) : ((sub24 a b).toNat : Int) = ((a.toNat : Int) - b.toNat) % 0x1000000 := by
  have hb : b.toNat < 2 ^ 24 := b.isLt
  rw [sub24, BitVec.toNat_sub]
  omega

/-- Settles O4: the two sums modulo 2^24, and the laws of addition and subtraction of bit vectors. -/
theorem addSubtractModulo : Obligations.AddSubtractModulo :=
  ⟨add24_toNat, sub24_toNat, BitVec.add_comm, BitVec.add_sub_cancel⟩

/-! ## Product and quotient (R79, R80) -/

/-- `mask24`, by which products and quotients are cut to a word. -/
theorem toNat_ofInt_word (i : Int) : ((BitVec.ofInt 24 i).toNat : Int) = i % 0x1000000 := by
  rw [BitVec.toNat_ofInt]
  omega

/-- The low bits of a product do not depend on how the factors are extended (R79). -/
theorem mul24_eq_mul (a b : Word) : mul24 a b = a * b := by
  rw [mul24, BitVec.ofInt_mul, BitVec.ofInt_toInt, BitVec.ofInt_toInt]

/-- Settles O5: the mask of the signed product, which is the product of the bit vectors. -/
theorem multiplyKeepsLowBits : Obligations.MultiplyKeepsLowBits := by
  intro a b
  have hunsigned : (mul24 a b).toNat = (a.toNat * b.toNat) % 0x1000000 := by
    rw [mul24_eq_mul]
    exact BitVec.toNat_mul a b
  exact ⟨toNat_ofInt_word _, hunsigned⟩

theorem div24_zero (a : Word) : div24 a 0 = .error .divisionByZero := if_pos rfl

theorem div24_of_ne_zero {b : Word} (h : b ≠ 0) (a : Word) :
    div24 a b = .ok (BitVec.ofInt 24 (a.toInt.tdiv b.toInt)) := if_neg h

/-- The masked quotient is the signed division of bit vectors, whose only overflow is known. -/
theorem ofInt_tdiv_eq_sdiv (a b : Word) : BitVec.ofInt 24 (a.toInt.tdiv b.toInt) = a.sdiv b := by
  rw [← BitVec.toInt_inj, BitVec.toInt_ofInt, BitVec.toInt_sdiv]

/-- Settles O6: the quotient is masked, and nothing is lost by that unless the smallest word is divided by -1. -/
theorem divideTruncatesTowardZero : Obligations.DivideTruncatesTowardZero := by
  refine ⟨div24_zero, by decide, fun a b hb => ⟨_, div24_of_ne_zero hb a, toNat_ofInt_word _, fun hwraps => ?_⟩⟩
  have hfits : a ≠ BitVec.intMin 24 ∨ b ≠ -1#24 := not_and_or.mp hwraps
  rw [ofInt_tdiv_eq_sdiv, BitVec.toInt_sdiv_of_ne_or_ne a b hfits]

/-! ## Comparison (R82) -/

/-- The three outcomes of a comparison: how the unsigned readings lie, the number, and the condition code of the
sentinel. -/
theorem compare_cases (a b : Word) :
    (a.toNat < b.toNat ∧ cmp24 a b = -1 ∧ ccOfWord (compareSentinel a b) = .lt)
      ∨ (a = b ∧ cmp24 a b = 0 ∧ ccOfWord (compareSentinel a b) = .eq)
      ∨ (b.toNat < a.toNat ∧ cmp24 a b = 1 ∧ ccOfWord (compareSentinel a b) = .gt) := by
  rcases Nat.lt_trichotomy a.toNat b.toNat with hlt | heq | hgt
  · have hcmp : cmp24 a b = -1 := if_pos hlt
    have hcc : ccOfWord lessSentinel = .lt := by decide
    exact .inl ⟨hlt, hcmp, by simp [compareSentinel, hcmp, hcc]⟩
  · have hab : a = b := BitVec.eq_of_toNat_eq heq
    have hcmp : cmp24 a b = 0 := by simp [cmp24, hab]
    have hcc : ccOfWord equalSentinel = .eq := by decide
    exact .inr (.inl ⟨hab, hcmp, by simp [compareSentinel, hcmp, hcc]⟩)
  · have hab : a ≠ b := fun h => hgt.ne' (congrArg BitVec.toNat h)
    have hcmp : cmp24 a b = 1 := by simp [cmp24, hab, hgt.le]
    have hcc : ccOfWord greaterSentinel = .gt := by decide
    exact .inr (.inr ⟨hgt, hcmp, by simp [compareSentinel, hcmp, hcc]⟩)

theorem cmp24_iff (a b : Word) :
    (cmp24 a b = -1 ↔ a.toNat < b.toNat) ∧ (cmp24 a b = 0 ↔ a = b) ∧ (cmp24 a b = 1 ↔ b.toNat < a.toNat) := by
  rw [← BitVec.toNat_inj]
  rcases compare_cases a b with ⟨hlt, hcmp, -⟩ | ⟨rfl, hcmp, -⟩ | ⟨hgt, hcmp, -⟩
  · simp [hcmp, hlt, hlt.le, hlt.ne]
  · simp [hcmp]
  · simp [hcmp, hgt, hgt.le, hgt.ne']

theorem ccOfWord_compareSentinel_iff (a b : Word) :
    (ccOfWord (compareSentinel a b) = .lt ↔ cmp24 a b = -1) ∧ (ccOfWord (compareSentinel a b) = .eq ↔ cmp24 a b = 0)
      ∧ (ccOfWord (compareSentinel a b) = .gt ↔ cmp24 a b = 1) := by
  rcases compare_cases a b with ⟨-, hcmp, hcc⟩ | ⟨-, hcmp, hcc⟩ | ⟨-, hcmp, hcc⟩ <;> simp [hcmp, hcc]

/-- The sign bit is the highest bit, so read as unsigned a negative word is the larger one (R82). -/
theorem toNat_lt_of_neg {a b : Word} (ha : a.toInt < 0) (hb : 0 ≤ b.toInt) : b.toNat < a.toNat := by
  have hhigh := BitVec.toInt_neg_iff.mp ha
  have hlow := BitVec.toInt_pos_iff.mp hb
  omega

/-- Settles O7: the three outcomes say the number and the code; a sign bit makes the unsigned reading large. -/
theorem compareIsUnsigned : Obligations.CompareIsUnsigned := by
  have hcode := ccOfWord_compareSentinel_iff
  simp only [forall_and] at hcode
  obtain ⟨hless, hequal, hgreater⟩ := hcode
  have hnegative (a b : Word) (ha : a.toInt < 0) (hb : 0 ≤ b.toInt) : cmp24 a b = 1 := by
    obtain ⟨-, -, hone⟩ := cmp24_iff a b
    exact hone.mpr (toNat_lt_of_neg ha hb)
  exact ⟨cmp24_iff, hless, hequal, hgreater, hnegative⟩

/-! ## Hexadecimal rendering (R84) -/

/-- Each of the sixteen digits is read as its value. -/
theorem hexDigitValue_hexDigit {n : Nat} (h : n < 16) : hexDigitValue? (hexDigit n) = some n := by
  revert n
  decide

@[simp] theorem length_hexDigits (d n : Nat) : (hexDigits d n).length = d := by
  induction d with
  | zero => rfl
  | succ d ih => simp [hexDigits, ih]

/-- Reading `d` digits shifts what was read before by `d` places and adds the low `d` digits of the number. -/
theorem digitsValue_hexDigits (d acc n : Nat) :
    digitsValue? hexDigitValue? 16 acc (hexDigits d n) = some (acc * 16 ^ d + n % 16 ^ d) := by
  induction d generalizing acc with
  | zero => simp [hexDigits, digitsValue?, Nat.mod_one]
  | succ d ih =>
    have hdigit : hexDigitValue? (hexDigit (n / 16 ^ d % 16)) = some (n / 16 ^ d % 16) :=
      hexDigitValue_hexDigit (Nat.mod_lt _ (by decide))
    have hvalue : (acc * 16 + n / 16 ^ d % 16) * 16 ^ d + n % 16 ^ d = acc * 16 ^ (d + 1) + n % 16 ^ (d + 1) := by
      rw [Nat.mod_pow_succ]
      ring
    simp only [hexDigits, digitsValue?, hdigit, ih, hvalue]

/-- A number below `16 ^ d` is read back from its `d` digits; there has to be a digit. -/
theorem hexNumber_hexDigits {d n : Nat} (hd : d ≠ 0) (hn : n < 16 ^ d) : hexNumber? (hexDigits d n) = some n := by
  obtain ⟨k, rfl⟩ := Nat.exists_eq_succ_of_ne_zero hd
  calc hexNumber? (hexDigits (k + 1) n)
    _ = digitsValue? hexDigitValue? 16 0 (hexDigits (k + 1) n) := rfl
    _ = some (0 * 16 ^ (k + 1) + n % 16 ^ (k + 1)) := digitsValue_hexDigits (k + 1) 0 n
    _ = some n := by rw [Nat.mod_eq_of_lt hn, Nat.zero_mul, Nat.zero_add]

/-- Settles O8: six digits hold the 24 bits of a word. -/
theorem hexRenderingRoundTrip : Obligations.HexRenderingRoundTrip := by
  intro w
  have hlength : (toHex w).length = 6 := length_hexDigits 6 w.toNat
  have hnumber : hexNumber? (toHex w) = some w.toNat := hexNumber_hexDigits (by decide) w.isLt
  have hread : fromHex (toHex w) = some w := by simp [fromHex, hlength, hnumber]
  exact ⟨hread, hlength⟩

end Sys2Proof.Machine
end

section
/-! Proofs about the address resolver (spec/41_address_resolver.md). On the decode path the address is one integer sum,
masked once; on the encode path the choice of the relative mode is said case by case, and a field in the range of its
format is what the codec reads back. PC-relative, the two paths cancel. -/

namespace Sys2Proof.Machine

/-! ## The decode path (R91 to R94) -/

/-- What the relative mode adds to the field, as an integer (R92). -/
def relativeBase (rel : RelMode) (pc b : Word) : Int :=
  match rel with
  | .pcRel => pc.toNat
  | .baseRel => b.toNat
  | .direct => 0
  | .invalid => 0

/-- The sum of R92 before it is cut to 24 bits. -/
def addressSum (m : Mode) (pc b x : Word) : Int :=
  m.field + relativeBase m.rel pc b + if m.indexed then (x.toNat : Int) else 0

/-- Masking the field and adding modulo 2^24 is masking the whole sum once (R92, D6). -/
theorem resolveAddr_eq_mask {m : Mode} (h : m.rel ≠ .invalid) (pc b x : Word) :
    resolveAddr m pc b x = .ok (BitVec.ofInt 24 (addressSum m pc b x)) := by
  have hword (w : Word) : BitVec.ofInt 24 (w.toNat : Int) = w := by simp
  have hindex : BitVec.ofInt 24 (if m.indexed then (x.toNat : Int) else 0) = if m.indexed then x else 0 := by
    cases m.indexed
    · rfl
    · exact hword x
  rw [resolveAddr_valid h, addressSum, BitVec.ofInt_add, BitVec.ofInt_add, hindex]
  cases m.rel with
  | direct => rfl
  | pcRel => simp only [relativeBase, hword]
  | baseRel => simp only [relativeBase, hword]
  | invalid => rfl

/-- Settles O12: the address is the mask of the integer sum. -/
theorem addressResolution : Obligations.AddressResolution := fun _ pc b x =>
  ⟨fun h => resolveAddr_invalid h pc b x, fun h => ⟨_, resolveAddr_eq_mask h pc b x, toNat_ofInt_word _⟩⟩

theorem operand_indirect_of_pointer {m : Memory} {a p : Word} (h : memReadWord m a.toNat = .ok p) :
    operand m .indirect a = memReadWord m p.toNat := by
  simp only [operand, h]

theorem operand_indirect_of_error {m : Memory} {a : Word} {e : StepError} (h : memReadWord m a.toNat = .error e) :
    operand m .indirect a = .error e := by
  simp only [operand, h]

theorem byteOperand_indirect_of_pointer {m : Memory} {a p : Word} (h : memReadWord m a.toNat = .ok p) :
    byteOperand m .indirect a = memReadByte m p.toNat := by
  simp only [byteOperand, h]

theorem byteOperand_indirect_of_error {m : Memory} {a : Word} {e : StepError} (h : memReadWord m a.toNat = .error e) :
    byteOperand m .indirect a = .error e := by
  simp only [byteOperand, h]

/-- Settles O13: only Indirect reads twice, and there the error of the pointer's read comes first. -/
theorem operandsByAbsoluteMode : Obligations.OperandsByAbsoluteMode := fun _ _ =>
  ⟨⟨rfl, rfl, rfl, fun _ => operand_indirect_of_pointer, fun _ => operand_indirect_of_error⟩,
    ⟨rfl, rfl, rfl, rfl⟩,
    ⟨rfl, rfl, rfl, fun _ => byteOperand_indirect_of_pointer, fun _ => byteOperand_indirect_of_error⟩⟩

/-! ## The encode path (R95 to R100) -/

theorem fits12_iff {v : Int} : fits12 v = true ↔ -2048 ≤ v ∧ v ≤ 2047 := by
  simp [fits12]

theorem chooseRel_base (abs : AbsMode) (v pc : Int) : chooseRel abs v true pc = (.baseRel, v) := rfl

theorem chooseRel_smallImmediate {abs : AbsMode} {v : Int} (h : abs = .immediate ∧ -2048 ≤ v ∧ v ≤ 2047) (pc : Int) :
    chooseRel abs v false pc = (.direct, v) := by
  simp [chooseRel, fits12_iff, h]

theorem chooseRel_near {abs : AbsMode} {v pc : Int} (h : ¬ (abs = .immediate ∧ -2048 ≤ v ∧ v ≤ 2047))
    (hnear : -2048 ≤ v - pc ∧ v - pc ≤ 2047) : chooseRel abs v false pc = (.pcRel, v - pc) := by
  simp only [chooseRel, fits12_iff, if_neg h, if_pos hnear, Bool.false_eq_true, if_false]

theorem chooseRel_far {abs : AbsMode} {v pc : Int} (h : ¬ (abs = .immediate ∧ -2048 ≤ v ∧ v ≤ 2047))
    (hfar : ¬ (-2048 ≤ v - pc ∧ v - pc ≤ 2047)) : chooseRel abs v false pc = (.baseRel, v) := by
  simp only [chooseRel, fits12_iff, if_neg h, if_neg hfar, Bool.false_eq_true, if_false]

section
variable {ctx : AsmContext} {token : Text} {v : Int} {sym : Bool}

/-- A format-3 operand carries the relative mode and the field that were chosen for its value (R98). -/
theorem chooseRel_of_encodeOperand {e : EncodedOperand}
    (h : resolveToken ctx.symbols (stripIndex (stripSign token).2).2 = .ok (v, sym))
    (he : encodeOperand ctx false token = .ok e) :
    chooseRel e.abs v ctx.baseEnabled ctx.pcNext = (e.rel, e.field) := by
  simp only [encodeOperand, h, Bool.false_eq_true, if_false, Except.ok.injEq] at he
  subst he
  rfl

theorem encodeOperand_f4 (h : resolveToken ctx.symbols (stripIndex (stripSign token).2).2 = .ok (v, sym))
    (hv : 0 ≤ v ∧ v ≤ 0xFFFFF) :
    encodeOperand ctx true token = .ok ⟨(stripSign token).1, .direct, (stripIndex (stripSign token).2).1, v, sym⟩ := by
  simp [encodeOperand, h, hv]

theorem encodeOperand_f4_outOfRange
    (h : resolveToken ctx.symbols (stripIndex (stripSign token).2).2 = .ok (v, sym)) (hv : ¬ (0 ≤ v ∧ v ≤ 0xFFFFF)) :
    encodeOperand ctx true token = .error .operandRange := by
  simp only [encodeOperand, h, if_neg hv, if_true]

end

/-- A field in [-2048, 2047] is what a format-3 instruction reads back from its 12 bits (R66, R99). -/
theorem toF3_mode_field {e : EncodedOperand} (h : -2048 ≤ e.field ∧ e.field ≤ 2047) : e.toF3.mode.field = e.field := by
  obtain ⟨hlow, hhigh⟩ := h
  exact BitVec.toInt_ofInt_eq_self (by decide) hlow (by omega)

/-- A field in [0, 0xFFFFF] is what a format-4 instruction reads back from its 20 bits (R66, R99). -/
theorem toF4_mode_field {e : EncodedOperand} (h : 0 ≤ e.field ∧ e.field ≤ 0xFFFFF) : e.toF4.mode.field = e.field := by
  calc e.toF4.mode.field
    _ = ((BitVec.ofInt 20 e.field).toNat : Int) := rfl
    _ = e.field := by rw [BitVec.toNat_ofInt]; omega

/-- Settles O58: the four cases of the choice, and the two of format 4. -/
theorem encoderModePriority : Obligations.EncoderModePriority := by
  refine ⟨chooseRel_base, fun abs v pc habs hlow hhigh => chooseRel_smallImmediate ⟨habs, hlow, hhigh⟩ pc,
    fun abs v pc h hlow hhigh => chooseRel_near h ⟨hlow, hhigh⟩, fun abs v pc h hfar => chooseRel_far h hfar,
    fun ctx token v sym hv => ⟨fun hlow hhigh => ?_, encodeOperand_f4_outOfRange hv⟩⟩
  have hrange : 0 ≤ v ∧ v ≤ 0xFFFFF := ⟨hlow, hhigh⟩
  exact ⟨_, encodeOperand_f4 hv hrange, rfl, rfl, toF4_mode_field hrange, rfl⟩

/-! ## Encoding and resolving (R101) -/

/-- Without an index a PC-relative operand whose displacement fits its 12 bits resolves to displacement plus PC. -/
theorem resolveAddr_toF3_pcRel {e : EncodedOperand} (hrel : e.rel = .pcRel) (h : -2048 ≤ e.field ∧ e.field ≤ 2047)
    (pc b x : Word) :
    resolveAddr { e.toF3.mode with indexed := false } pc b x = .ok (BitVec.ofInt 24 (e.field + pc.toNat)) := by
  have hmode : e.toF3.mode.rel = .pcRel := hrel
  have hsum : addressSum { e.toF3.mode with indexed := false } pc b x = e.field + pc.toNat := by
    simp [addressSum, relativeBase, hmode, toF3_mode_field h]
  rw [resolveAddr_eq_mask (by simp [hmode]), hsum]

/-- Settles O57: PC, which the encoder took off the value, is added again. -/
theorem pcRelativeOperandRoundTrip : Obligations.PcRelativeOperandRoundTrip := by
  intro ctx token e value sym pc b x hbase hpc he hvalue hsmall hlow hhigh
  have hnear : -2048 ≤ value - pc.toNat ∧ value - pc.toNat ≤ 2047 := ⟨hlow, hhigh⟩
  have hchosen := chooseRel_of_encodeOperand hvalue he
  rw [hbase, hpc, chooseRel_near hsmall hnear, Prod.mk.injEq] at hchosen
  obtain ⟨hrel, hfield⟩ := hchosen
  have hresolves := resolveAddr_toF3_pcRel hrel.symm (hfield ▸ hnear) pc b x
  rw [← hfield, Int.sub_add_cancel] at hresolves
  exact ⟨hrel.symm, hresolves⟩

end Sys2Proof.Machine
end

section
/-! Proofs about the interpreter's cycle (spec/42_interpreter_cycle.md). What a Step runs is said by the entry at PC or
by the live decode; what a Step does to the image is a resync or nothing, from which coherence follows; and of the
instructions only J can end other than Idle, and none reports an opcode. -/

namespace Sys2Proof.Machine

open Sys2Proof.Claims

/-! ## What a Step runs (R106 to R108) -/

section
variable {s : State}

/-- Without an entry at PC the fetch hands out what the resync decoded (R107). -/
theorem fetch_miss {e : Entry} {img : Image} (hmiss : s.image.entries.lookup s.regs.PC.toNat = none)
    (h : resync s.mem s.image s.regs.PC.toNat = .ok (e, img)) : fetch s = (s.beginStep.resynced img).deliver e := by
  simp [fetch, hmiss, h]

theorem fetch_miss_error {e : StepError} (hmiss : s.image.entries.lookup s.regs.PC.toNat = none)
    (h : resync s.mem s.image s.regs.PC.toNat = .error e) : fetch s = .failed e s.beginStep := by
  simp [fetch, hmiss, h]

theorem step_of_deliver_ins {u : State} {i : Instr} (h : fetch s = u.deliver (.ins i)) :
    step s = exec i { u with trace := { u.trace with entry := some (.ins i) } } := by
  simp only [step, h, State.deliver]

theorem step_of_deliver_unknown {u : State} {b : Byte} (h : fetch s = u.deliver (.unknown b)) :
    step s = .next
      (State.report { u with trace := { u.trace with entry := some (.unknown b) } } (.invalidOpcode b)) := by
  simp only [step, h, State.deliver]

theorem step_of_failed {u : State} {e : StepError} (h : fetch s = .failed e u) : step s = .next (u.report e) := by
  simp only [step, h]

end

theorem resync_ok {m : Memory} {img : Image} {a : Nat} {e : Entry} {more : Entries} (hl : liveDecode m a = .ok e)
    (ht : tailEntries m img.lastByteAddr (a + e.length) = .ok more) :
    resync m img a = .ok (e, { img with entries := img.entries.below a ++ (a, e) :: more }) := by
  simp only [resync, hl, ht]

theorem resync_of_liveDecode_error {m : Memory} {a : Nat} {e : StepError} (h : liveDecode m a = .error e)
    (img : Image) : resync m img a = .error e := by
  simp only [resync, h]

theorem liveDecode_above {m : Memory} {a : Nat} (h : Config.memSize ≤ a) :
    liveDecode m a = .error (.addressError a 1) := by
  simp only [liveDecode, memReadByte_error (Nat.not_lt.mpr h)]

/-- The encoding of a valid instruction in memory is decoded to it (R68, R107). -/
theorem liveDecode_of_encode {m : Memory} {a : Nat} {i : Instr} (hi : i.wellFormed = true)
    (hfits : a + i.length ≤ Config.memSize) (hbytes : m.getBytes a i.length = encode i) :
    liveDecode m a = .ok (.ins i) := by
  have hdecode : decode (m.getBytes a i.length) = .ok (i, []) := hbytes ▸ decode_encode hi
  exact liveDecode_of_decode hdecode hfits

/-- Settles O36: a hit hands out the entry; on a miss the bytes at PC decode to the instruction they encode. -/
theorem stepRunsTheDecodedInstruction : Obligations.StepRunsTheDecodedInstruction := by
  refine ⟨fun s i hit => step_of_deliver_ins (fetch_hit hit), fun s i more hmiss hi hfits hbytes ht => ?_⟩
  have hlive : liveDecode s.mem s.regs.PC.toNat = .ok (.ins i) := liveDecode_of_encode hi hfits hbytes
  exact step_of_deliver_ins (fetch_miss hmiss (resync_ok hlive ht))

/-! ## Coherence (R115) -/

/-- What a resync leaves below PC was coherent, and what it puts from PC on is decoded from memory (R107). -/
theorem resync_coherent {s : State} {e : Entry} {img : Image} {a : Nat} (hs : Coherent s)
    (h : resync s.mem s.image a = .ok (e, img)) : Coherent { s with image := img } := by
  obtain ⟨hlive, more, ht, rfl⟩ := resync_spec h
  intro k x hk
  rw [Entries.lookup_append, Entries.lookup_below, Option.or_eq_some_iff] at hk
  rcases hk with hbelow | ⟨-, hfrom⟩
  · split at hbelow
    next => exact hs k x hbelow
    next => cases hbelow
  · rcases List.mem_cons.mp (Entries.mem_of_lookup hfrom) with heq | hmore
    · cases heq
      exact hlive
    · obtain ⟨-, -, hx⟩ := tailEntries_spec ht _ hmore
      exact hx

/-- A Step changes the image by a resync at PC or not at all (R107, R52). -/
theorem step_image_cases {s t : State} (h : step s = .next t) :
    t.image = s.image ∨ ∃ e, resync s.mem s.image s.regs.PC.toNat = .ok (e, t.image) := by
  rcases step_cases h with ⟨i, s', hf, he⟩ | ⟨e, s', hf, rfl⟩
  · have himage : t.image = s'.image := (exec_finishes he).image
    rw [himage]
    obtain ⟨-, -, -, -, -, -, -, ⟨hsame, -⟩ | ⟨-, -, hresync⟩⟩ := fetch_got hf
    · exact .inl hsame
    · exact .inr ⟨_, hresync⟩
  · obtain ⟨-, -, -, -, -, -, hsame | ⟨-, -, b, hresync⟩⟩ := fetch_failed hf
    · exact .inl hsame
    · exact .inr ⟨_, hresync⟩

/-- A change of memory outside the bytes of every entry keeps the image coherent (R115). -/
theorem Coherent.of_outsideCode {s t : State} (hs : Coherent { s with image := t.image })
    (h : ∀ a, t.mem.get a ≠ s.mem.get a → OutsideCode t a) : Coherent t := by
  intro k e hk
  refine liveDecode_congr (hs k e hk) fun b hlow hhigh => ?_
  by_contra hchanged
  have houtside := h b hchanged k e hk
  omega

/-- Settles O45: the image after a Step is coherent with the memory before it, and what was stored lies outside. -/
theorem stepKeepsCoherence : Obligations.StepKeepsCoherence := by
  refine ⟨fun s hs e hit => hs _ e hit, fun s e img _ hs h => ⟨(resync_spec h).1, resync_coherent hs h⟩,
    fun s t _ hs h hstores => Coherent.of_outsideCode ?_ hstores⟩
  rcases step_image_cases h with hsame | ⟨e, hresync⟩
  · rw [hsame]
    exact hs
  · exact resync_coherent hs hresync

/-- With a coherent image the fetch hands out what memory holds at PC, by hit or by miss (R115). -/
theorem fetch_of_liveDecode {s : State} {e : Entry} (hi : Inv s) (hs : Coherent s)
    (h : liveDecode s.mem s.regs.PC.toNat = .ok e) :
    ∃ u : State, fetch s = u.deliver e ∧ u.regs = s.regs ∧ u.mem = s.mem ∧ u.dev = s.dev ∧ u.loader = s.loader
      ∧ Coherent u := by
  cases hit : s.image.entries.lookup s.regs.PC.toNat with
  | some x =>
    have hx : x = e := Except.ok.inj ((hs _ x hit).symm.trans h)
    exact ⟨s.beginStep, hx ▸ fetch_hit hit, rfl, rfl, rfl, rfl, hs⟩
  | none =>
    obtain ⟨-, -, -, -, hlast⟩ := hi
    obtain ⟨more, ht⟩ := tailEntries_ok (m := s.mem) hlast (s.regs.PC.toNat + e.length)
    have hresync := resync_ok h ht
    exact ⟨_, fetch_miss hit hresync, rfl, rfl, rfl, rfl, resync_coherent hs hresync⟩

/-- A live decode that fails is met on a miss, since every entry of a coherent image decodes (R115). -/
theorem fetch_of_liveDecode_error {s : State} {e : StepError} (hs : Coherent s)
    (h : liveDecode s.mem s.regs.PC.toNat = .error e) : fetch s = .failed e s.beginStep := by
  cases hit : s.image.entries.lookup s.regs.PC.toNat with
  | some x => cases h.symm.trans (hs _ x hit)
  | none => exact fetch_miss_error hit (resync_of_liveDecode_error h s.image)

/-- Settles O44: what the fetch hands out is what the live decode answers, and so is what it reports. -/
theorem coherentFetchIsLiveDecode : Obligations.CoherentFetchIsLiveDecode := by
  intro s hi hs
  refine ⟨fun i h => ?_, fun b h => ?_, fun e h => ?_⟩
  · obtain ⟨u, hf, hregs, hmem, hdev, hloader, hu⟩ := fetch_of_liveDecode hi hs h
    exact ⟨_, step_of_deliver_ins hf, hregs, hmem, hdev, hloader, hu⟩
  · obtain ⟨u, hf, hregs, -⟩ := fetch_of_liveDecode hi hs h
    exact ⟨_, step_of_deliver_unknown hf, rfl, hregs⟩
  · exact ⟨_, step_of_failed (fetch_of_liveDecode_error hs h), rfl, rfl⟩

/-! ## How an instruction ends (R105, R109, R241) -/

/-- No opcode is reported: what an entry that is executed can report (R108, R241). -/
def ReportsNoOpcode {α : Type} (r : Except StepError α) : Prop := ∀ b, r ≠ .error (.invalidOpcode b)

theorem reportsNoOpcode_ok {α : Type} (v : α) : ReportsNoOpcode (.ok v) := fun _ h => by cases h

theorem operand_reportsNoOpcode (m : Memory) (abs : AbsMode) (addr : Word) : ReportsNoOpcode (operand m abs addr) := by
  intro b h
  obtain ⟨a, he⟩ := operand_error_only h
  cases he

theorem targetStore_reportsNoOpcode (m : Memory) (abs : AbsMode) (addr : Word) :
    ReportsNoOpcode (targetStore m abs addr) := by
  intro b h
  rcases targetStore_error_only h with ⟨-, he⟩ | ⟨-, he⟩ <;> cases he

theorem byteOperand_reportsNoOpcode (m : Memory) (abs : AbsMode) (addr : Word) :
    ReportsNoOpcode (byteOperand m abs addr) := by
  intro b h
  cases abs with
  | sic | direct => cases memReadByte_error_only h
  | immediate => cases h
  | indirect =>
    cases hp : memReadWord m addr.toNat with
    | ok p => cases memReadByte_error_only ((byteOperand_indirect_of_pointer hp).symm.trans h)
    | error e =>
      cases (byteOperand_indirect_of_error hp).symm.trans h
      cases memReadWord_error_only hp

theorem memWriteBytes_reportsNoOpcode (m : Memory) (a : Nat) (bytes : List Byte) :
    ReportsNoOpcode (memWriteBytes m a bytes) := by
  intro b h
  unfold memWriteBytes at h
  split at h <;> cases h

theorem lookupReg_reportsNoOpcode (id : BitVec 4) : ReportsNoOpcode (lookupReg id) := by
  intro b h
  unfold lookupReg at h
  split at h <;> cases h

theorem div24_reportsNoOpcode (a v : Word) : ReportsNoOpcode (div24 a v) := by
  intro b h
  unfold div24 at h
  split at h <;> cases h

/-- A Step from `s` ends in `t` as all but J do: Idle, and an opcode is in the trace only where it was before. -/
structure EndsIdle (s t : State) : Prop where
  status : t.control.status = .idle
  error : ∀ b, t.trace.error = some (.invalidOpcode b) → s.trace.error = some (.invalidOpcode b)

section
variable {s t : State}

theorem endsIdle_retire {u : State} (h : u.trace.error = s.trace.error) : EndsIdle s u.retire where
  status := rfl
  error _ hb := h.symm.trans hb

theorem endsIdle_report {e : StepError} (h : ∀ b, e ≠ .invalidOpcode b) (u : State) : EndsIdle s (u.report e) where
  status := rfl
  error b hb := absurd (Option.some.inj hb) (h b)

theorem attempt_endsIdle {α : Type} {r : Except StepError α} {k : α → Out} (h : s.attempt r k = .next t)
    (hr : ReportsNoOpcode r) (hk : ∀ v, k v = .next t → EndsIdle s t) : EndsIdle s t := by
  rcases State.attempt_cases h with ⟨v, -, hkv⟩ | ⟨e, he, rfl⟩
  · exact hk v hkv
  · exact endsIdle_report (fun b hb => hr b (hb ▸ he)) s

theorem loadWord_endsIdle {r : Reg} {abs : AbsMode} {addr : Word} (h : loadWord r abs addr s = .next t) :
    EndsIdle s t :=
  attempt_endsIdle h (operand_reportsNoOpcode _ _ _) fun _ hk => next_inj hk ▸ endsIdle_retire rfl

theorem storeWord_endsIdle {r : Reg} {abs : AbsMode} {addr : Word} (h : storeWord r abs addr s = .next t) :
    EndsIdle s t :=
  attempt_endsIdle h (targetStore_reportsNoOpcode _ _ _) fun _ hk =>
    attempt_endsIdle hk (memWriteBytes_reportsNoOpcode _ _ _) fun _ hk => next_inj hk ▸ endsIdle_retire rfl

theorem accumulate_endsIdle {f : Word → Word → Except StepError Word} {abs : AbsMode} {addr : Word}
    (hf : ∀ a v, ReportsNoOpcode (f a v)) (h : accumulate f abs addr s = .next t) : EndsIdle s t :=
  attempt_endsIdle h (operand_reportsNoOpcode _ _ _) fun _ hk =>
    attempt_endsIdle hk (hf _ _) fun _ hk => next_inj hk ▸ endsIdle_retire rfl

theorem combineRegs_endsIdle {f : Word → Word → Except StepError Word} {r1 r2 : BitVec 4}
    (hf : ∀ a v, ReportsNoOpcode (f a v)) (h : combineRegs f r1 r2 s = .next t) : EndsIdle s t :=
  attempt_endsIdle h (lookupReg_reportsNoOpcode _) fun _ hk =>
    attempt_endsIdle hk (lookupReg_reportsNoOpcode _) fun _ hk =>
      attempt_endsIdle hk (hf _ _) fun _ hk => next_inj hk ▸ endsIdle_retire rfl

theorem branchIf_endsIdle {taken : Bool} {addr : Word} {u : State} (hu : u.trace.error = s.trace.error)
    (h : branchIf taken addr u = .next t) : EndsIdle s t := by
  obtain rfl := next_inj h
  cases taken <;> exact endsIdle_retire hu

theorem noop_endsIdle (h : noop s = .next t) : EndsIdle s t := next_inj h ▸ endsIdle_retire rfl

theorem opStch_endsIdle {abs : AbsMode} {addr : Word} (h : opStch abs addr s = .next t) : EndsIdle s t :=
  attempt_endsIdle h (targetStore_reportsNoOpcode _ _ _) fun _ hk =>
    attempt_endsIdle hk (memWriteBytes_reportsNoOpcode _ _ _) fun _ hk => next_inj hk ▸ endsIdle_retire rfl

theorem opRd_endsIdle {abs : AbsMode} {addr : Word} (h : opRd abs addr s = .next t) : EndsIdle s t := by
  rcases opRd_cases h with ⟨v, b, -, -, rfl⟩ | ⟨v, -, -, rfl⟩ | ⟨e, he, rfl⟩
  · exact endsIdle_retire rfl
  · exact endsIdle_report (fun _ hb => by cases hb) _
  · exact endsIdle_report (fun b hb => operand_reportsNoOpcode _ _ _ b (hb ▸ he)) s

theorem opWd_endsIdle {abs : AbsMode} {addr : Word} (h : opWd abs addr s = .next t) : EndsIdle s t := by
  rcases opWd_cases h with ⟨v, -, -, rfl⟩ | ⟨v, -, -, rfl⟩ | ⟨e, he, rfl⟩
  · exact endsIdle_retire rfl
  · exact endsIdle_report (fun _ hb => by cases hb) _
  · exact endsIdle_report (fun b hb => operand_reportsNoOpcode _ _ _ b (hb ▸ he)) s

/-- Every F3/4 operation but J ends Idle, its address resolved (R109). -/
theorem op34Effect_endsIdle {a0 : Word} {op : Op34} {abs : AbsMode} {addr : Word} (hop : op ≠ .j)
    (h : op34Effect a0 op abs addr s = .next t) : EndsIdle s t := by
  cases op with
  | j => exact absurd rfl hop
  | lda | ldx | ldl | ldb | lds | ldt => exact loadWord_endsIdle h
  | sta | stx | stl | stb | sts | stt | stsw => exact storeWord_endsIdle h
  | stch => exact opStch_endsIdle h
  | add | sub | mul | and | or =>
    unfold op34Effect at h
    exact accumulate_endsIdle (fun _ _ => reportsNoOpcode_ok _) h
  | div => exact accumulate_endsIdle div24_reportsNoOpcode h
  | comp | tix | td =>
    exact attempt_endsIdle h (operand_reportsNoOpcode _ _ _) fun _ hk => next_inj hk ▸ endsIdle_retire rfl
  | ldch =>
    exact attempt_endsIdle h (byteOperand_reportsNoOpcode _ _ _) fun _ hk => next_inj hk ▸ endsIdle_retire rfl
  | jeq | jgt | jlt | rsub => exact branchIf_endsIdle rfl h
  | jsub => exact branchIf_endsIdle (u := s.setReg .L s.regs.PC) rfl h
  | rd => exact opRd_endsIdle h
  | wd => exact opWd_endsIdle h
  | addf | subf | mulf | divf | compf | ldf | stf | lps | sti | ssk => exact noop_endsIdle h

/-- Every format-2 operation ends Idle. -/
theorem op2Effect_endsIdle {op : Op2} {r1 r2 : BitVec 4} (h : op2Effect r1 r2 op s = .next t) : EndsIdle s t := by
  cases op with
  | addr | subr | mulr | rmo =>
    unfold op2Effect at h
    exact combineRegs_endsIdle (fun _ _ => reportsNoOpcode_ok _) h
  | divr => exact combineRegs_endsIdle div24_reportsNoOpcode h
  | compr =>
    exact attempt_endsIdle h (lookupReg_reportsNoOpcode _) fun _ hk =>
      attempt_endsIdle hk (lookupReg_reportsNoOpcode _) fun _ hk => next_inj hk ▸ endsIdle_retire rfl
  | clear | tixr =>
    exact attempt_endsIdle h (lookupReg_reportsNoOpcode _) fun _ hk => next_inj hk ▸ endsIdle_retire rfl
  | shiftl | shiftr | svc => exact noop_endsIdle h

/-- In a format with an address b = p = 1 reports, and the effect ends Idle (R91, R105). -/
theorem runMem_op34_endsIdle {len : Nat} {m : Mode} {a0 : Word} {op : Op34} (hop : op ≠ .j)
    (h : runMem len m (op34Effect a0 op) s = .next t) : EndsIdle (s.advance len) t := by
  rcases runMem_cases h with ⟨-, rfl⟩ | ⟨addr, -, hk⟩
  · exact endsIdle_report (fun _ hb => by cases hb) _
  · obtain ⟨hstatus, herror⟩ := op34Effect_endsIdle hop hk
    exact ⟨hstatus, herror⟩

/-! ## The jump that can halt (R109, R166) -/

/-- The instruction is a J in one of its formats, with this length and these addressing fields. -/
def IsJump (i : Instr) (len : Nat) (m : Mode) : Prop :=
  (∃ o, i = .jSic o ∧ len = 3 ∧ m = o.mode) ∨ (∃ o, i = .jF3 o ∧ len = 3 ∧ m = o.mode)
    ∨ ∃ o, i = .jF4 o ∧ len = 4 ∧ m = o.mode

theorem exists_isJump_iff (i : Instr) :
    (∃ len m, IsJump i len m) ↔ (∃ o, i = .jSic o) ∨ (∃ o, i = .jF3 o) ∨ ∃ o, i = .jF4 o := by
  constructor
  · rintro ⟨len, m, ⟨o, hi, -⟩ | ⟨o, hi, -⟩ | ⟨o, hi, -⟩⟩
    · exact .inl ⟨o, hi⟩
    · exact .inr (.inl ⟨o, hi⟩)
    · exact .inr (.inr ⟨o, hi⟩)
  · rintro (⟨o, hi⟩ | ⟨o, hi⟩ | ⟨o, hi⟩)
    · exact ⟨3, o.mode, .inl ⟨o, hi, rfl, rfl⟩⟩
    · exact ⟨3, o.mode, .inr (.inl ⟨o, hi, rfl, rfl⟩)⟩
    · exact ⟨4, o.mode, .inr (.inr ⟨o, hi, rfl, rfl⟩)⟩

/-- In all three formats J is the same effect behind the resolved address. -/
theorem exec_jump {i : Instr} {len : Nat} {m : Mode} (h : IsJump i len m) (s : State) :
    exec i s = runMem len m (opJ s.regs.PC) s := by
  rcases h with ⟨o, rfl, rfl, rfl⟩ | ⟨o, rfl, rfl, rfl⟩ | ⟨o, rfl, rfl, rfl⟩ <;> rfl

/-- Every instruction is a J, or ends Idle (R109). -/
theorem isJump_or_endsIdle {i : Instr} (h : exec i s = .next t) :
    (∃ len m, IsJump i len m) ∨ ∃ len, EndsIdle (s.advance len) t := by
  rcases instr_cases i with ⟨op, rfl⟩ | ⟨op, r1, r2, rfl⟩ | ⟨op, o, rfl⟩ | ⟨op, o, rfl⟩ | ⟨op, o, rfl⟩
  · rw [exec_f1] at h
    exact .inr ⟨1, noop_endsIdle h⟩
  · rw [exec_f2] at h
    exact .inr ⟨2, op2Effect_endsIdle h⟩
  · rw [exec_sic] at h
    rcases eq_or_ne op .j with rfl | hop
    · exact .inl ⟨3, o.mode, .inl ⟨o, rfl, rfl, rfl⟩⟩
    · exact .inr ⟨3, runMem_op34_endsIdle hop h⟩
  · rw [exec_f3] at h
    rcases eq_or_ne op .j with rfl | hop
    · exact .inl ⟨3, o.mode, .inr (.inl ⟨o, rfl, rfl, rfl⟩)⟩
    · exact .inr ⟨3, runMem_op34_endsIdle hop h⟩
  · rw [exec_f4] at h
    rcases eq_or_ne op .j with rfl | hop
    · exact .inl ⟨4, o.mode, .inr (.inr ⟨o, rfl, rfl, rfl⟩)⟩
    · exact .inr ⟨4, runMem_op34_endsIdle hop h⟩

/-- The state after a J to itself: PC is advanced and set back, so only status and trace tell of it (R109). -/
def State.selfJumped (s : State) : State :=
  { s with
    control := { s.control with status := .halted }
    trace := { s.trace with addr := some s.regs.PC, unimplemented := false, error := none, status := .halted } }

theorem exec_selfJump {i : Instr} {len : Nat} {m : Mode} (hi : IsJump i len m)
    (hr : resolveAddr m (s.regs.PC + BitVec.ofNat 24 len) s.regs.B s.regs.X = .ok s.regs.PC) :
    exec i s = .next s.selfJumped := by
  rw [exec_jump hi, runMem_ok hr, opJ, if_pos rfl]
  rfl

/-- A J raises InvalidBP, or jumps to itself and halts, or jumps elsewhere and ends Idle (R91, R109, R166). -/
theorem exec_jump_cases {i : Instr} {len : Nat} {m : Mode} (hi : IsJump i len m) (h : exec i s = .next t) :
    (t.control.status = .idle ∧ t.trace.error = some .invalidBP)
      ∨ (resolveAddr m (s.regs.PC + BitVec.ofNat 24 len) s.regs.B s.regs.X = .ok s.regs.PC ∧ t = s.selfJumped)
      ∨ (t.control.status = .idle ∧ t.trace.error = none ∧ t.trace.addr ≠ some s.regs.PC) := by
  rw [exec_jump hi] at h
  rcases runMem_cases h with ⟨-, rfl⟩ | ⟨addr, hr, hk⟩
  · exact .inl ⟨rfl, rfl⟩
  · by_cases haddr : addr = s.regs.PC
    · subst haddr
      have hself : runMem len m (opJ s.regs.PC) s = .next s.selfJumped := by
        rw [← exec_jump hi]
        exact exec_selfJump hi hr
      exact .inr (.inl ⟨hr, next_inj (hself.symm.trans h)⟩)
    · rw [opJ, if_neg haddr] at hk
      obtain rfl := next_inj hk
      exact .inr (.inr ⟨rfl, rfl, fun hsome => haddr (Option.some.inj hsome)⟩)

/-- An instruction that halts is a J to its own address (R109). -/
theorem exec_halted {i : Instr} (h : exec i s = .next t) (ht : t.control.status = .halted) :
    ∃ len m, IsJump i len m
      ∧ resolveAddr m (s.regs.PC + BitVec.ofNat 24 len) s.regs.B s.regs.X = .ok s.regs.PC ∧ t = s.selfJumped := by
  rcases isJump_or_endsIdle h with ⟨len, m, hi⟩ | ⟨len, hidle, -⟩
  · rcases exec_jump_cases hi h with ⟨hidle, -⟩ | ⟨hr, hself⟩ | ⟨hidle, -⟩
    · cases hidle.symm.trans ht
    · exact ⟨len, m, hi, hr, hself⟩
    · cases hidle.symm.trans ht
  · cases hidle.symm.trans ht

/-- The fetch alone reports an opcode (R108, R241). -/
theorem exec_error_ne_invalidOpcode {i : Instr} (h : exec i s = .next t) (b : Byte) :
    t.trace.error ≠ some (.invalidOpcode b) := by
  intro hb
  rcases isJump_or_endsIdle h with ⟨len, m, hi⟩ | ⟨len, -, herror⟩
  · rcases exec_jump_cases hi h with ⟨-, hbp⟩ | ⟨-, rfl⟩ | ⟨-, hnone, -⟩
    · cases hbp.symm.trans hb
    · cases hb
    · cases hnone.symm.trans hb
  · cases herror b hb

end

/-! ## Halting (R109, D20) -/

/-- Settles O40: a failed fetch reports; an instruction that halts is a J to its own address, and such a J halts. -/
theorem haltsOnlyAtSelfJump : Obligations.HaltsOnlyAtSelfJump := by
  intro s t h
  rcases step_cases h with ⟨i, u, hf, he⟩ | ⟨e, u, -, rfl⟩
  · obtain ⟨hregs, -, -, -, -, hfetched, -⟩ := fetch_got hf
    have hentry : t.trace.entry = some (.ins i) := (exec_finishes he).fetched.2.trans hfetched
    simp only [hentry, Option.some.injEq, Entry.ins.injEq, ← exists_isJump_iff, ← hregs]
    constructor
    · intro ht
      obtain ⟨len, m, hi, -, rfl⟩ := exec_halted he ht
      exact ⟨rfl, rfl, len, m, hi⟩
    · rintro ⟨hnone, haddr, len, m, hi⟩
      rcases exec_jump_cases hi he with ⟨-, hbp⟩ | ⟨-, rfl⟩ | ⟨-, -, helsewhere⟩
      · cases hbp.symm.trans hnone
      · rfl
      · exact absurd haddr helsewhere
  · simp

/-- Settles O41: the entry that was fetched is in the image and its J moved nothing, so it is fetched and run again. -/
theorem haltedStateIsFixed : Obligations.HaltedStateIsFixed := by
  constructor
  · intro s t h ht
    rcases step_cases h with ⟨i, u, hf, he⟩ | ⟨e, u, hf, rfl⟩
    · obtain ⟨hregs, -, -, -, -, -, hlookup, -⟩ := fetch_got hf
      obtain ⟨len, m, hi, hr, rfl⟩ := exec_halted he ht
      rw [← hregs] at hlookup
      exact ⟨i, len, m, hi, hlookup, hr⟩
    · cases ht
  · intro s hs ht
    obtain ⟨i, len, m, hi, hlookup, hr⟩ := hs ht
    have hrun := step_of_deliver_ins (fetch_hit hlookup)
    have hcontrol : { s.control with status := .halted } = s.control := by rw [← ht]
    exact ⟨_, hrun.trans (exec_selfJump hi hr), rfl, rfl, rfl, hcontrol, rfl, rfl⟩

/-! ## A fetch that fails (R108, D19) -/

/-- A fetch that reports an opcode met an Unknown/data entry, which is in the image from then on (R106, R107). -/
theorem fetch_failed_invalidOpcode {s u : State} {b : Byte} (h : fetch s = .failed (.invalidOpcode b) u) :
    u.regs = s.regs ∧ u.mem = s.mem ∧ u.image.entries.lookup s.regs.PC.toNat = some (.unknown b) := by
  obtain ⟨hregs, hmem, -, -, -, ⟨x, hx, hlookup⟩ | ⟨-, -, hresync⟩, -⟩ := fetch_failed h
  · cases hx
    exact ⟨hregs, hmem, hlookup⟩
  · obtain ⟨addr, width, he⟩ := resync_error hresync
    cases he

/-- Settles O37: nothing but status and trace is written, and the Unknown/data entry stays where PC stays. -/
theorem failedFetchLeavesPC : Obligations.FailedFetchLeavesPC := by
  refine ⟨fun s b hlookup => ?_, fun s hmiss habove => ?_, fun s t u b h hb hagain => ?_⟩
  · exact ⟨_, step_of_deliver_unknown (fetch_hit hlookup), rfl, rfl, rfl, rfl, rfl, rfl⟩
  · have hresync := resync_of_liveDecode_error (liveDecode_above (m := s.mem) habove) s.image
    exact ⟨_, step_of_failed (fetch_miss_error hmiss hresync), rfl, rfl, rfl, rfl, rfl, rfl⟩
  · rcases step_cases h with ⟨i, s', -, he⟩ | ⟨e, s', hf, rfl⟩
    · exact absurd hb (exec_error_ne_invalidOpcode he b)
    · obtain rfl : e = .invalidOpcode b := Option.some.inj hb
      obtain ⟨hregs, hmem, hlookup⟩ := fetch_failed_invalidOpcode hf
      rw [← hregs] at hlookup
      have hhit := fetch_hit (s := s'.report (.invalidOpcode b)) hlookup
      obtain rfl := next_inj ((step_of_deliver_unknown hhit).symm.trans hagain).symm
      exact ⟨hregs, hmem, rfl, rfl, rfl, rfl⟩

/-! ## Commands (R110, D18) -/

/-- Every command but `stop()` waits, or is performed (R110). -/
theorem issue_of_ne_stop {c : Command} (hc : c ≠ .stop) (q : Session) :
    q.issue c = if q.core.control.running || !q.pending.isEmpty then (⟨q.core, q.pending ++ [c]⟩, .waiting)
      else (⟨(perform c q.core).1, q.pending⟩, (perform c q.core).2) := by
  cases c with
  | stop => exact absurd rfl hc
  | reset | loadObject | loadAssembly | step | run | emitObject => rfl

/-- Settles O60: of the two branches of a command that is no `stop()`, the state of the Run says which is taken. -/
theorem commandsWaitDuringRun : Obligations.CommandsWaitDuringRun := by
  refine ⟨fun q c hrun hc => ?_, fun q => ⟨rfl, rfl⟩, fun q c hrun hnone hc => ?_⟩
  · simp [issue_of_ne_stop hc, hrun]
  · simp [issue_of_ne_stop hc, hrun, hnone]

end Sys2Proof.Machine
end

section
/-! Proofs about device input and output (spec/46_device_io.md). Every instruction reads values from registers and memory,
ends early where one of them is refused, and writes its result. The device port has a part in these values for RD and
WD alone, so of the other instructions every run goes through with another port in the state. -/

namespace Sys2Proof.Machine

/-! ## The device port is looked at by RD and WD alone (R190, D27) -/

section
variable {s t : State} {d : DevicePort}

/-- A report takes the port over from its state, so only the value's continuation has to be followed. -/
theorem attempt_replaceDev {α : Type} {r : Except StepError α} {k k' : α → Out} (h : s.attempt r k = .next t)
    (hk : ∀ v, k v = .next t → k' v = .next { t with dev := d }) :
    State.attempt { s with dev := d } r k' = .next { t with dev := d } := by
  rcases State.attempt_cases h with ⟨v, rfl, hkv⟩ | ⟨e, rfl, rfl⟩
  · exact hk v hkv
  · rfl

theorem branchIf_replaceDev {taken : Bool} {addr : Word} (h : branchIf taken addr s = .next t) :
    branchIf taken addr { s with dev := d } = .next { t with dev := d } := by
  obtain rfl := next_inj h
  cases taken <;> rfl

theorem noop_replaceDev (h : noop s = .next t) : noop { s with dev := d } = .next { t with dev := d } :=
  next_inj h ▸ rfl

theorem combineRegs_replaceDev {f : Word → Word → Except StepError Word} {r1 r2 : BitVec 4}
    (h : combineRegs f r1 r2 s = .next t) : combineRegs f r1 r2 { s with dev := d } = .next { t with dev := d } :=
  attempt_replaceDev h fun _ hk => attempt_replaceDev hk fun _ hk => attempt_replaceDev hk fun _ hk => next_inj hk ▸ rfl

/-- The F3/4 operations by what can be refused: a load or compare obtains an operand; a store obtains a target, then
writes; arithmetic obtains an operand, then computes; a jump or a no-op is refused nothing. -/
theorem op34Effect_replaceDev {a0 : Word} {op : Op34} {abs : AbsMode} {addr : Word} (hrd : op ≠ .rd) (hwd : op ≠ .wd)
    (h : op34Effect a0 op abs addr s = .next t) :
    op34Effect a0 op abs addr { s with dev := d } = .next { t with dev := d } := by
  cases op with
  | rd => exact absurd rfl hrd
  | wd => exact absurd rfl hwd
  | lda | ldx | ldl | ldb | lds | ldt | ldch | comp | tix | td =>
    exact attempt_replaceDev h fun _ hk => next_inj hk ▸ rfl
  | sta | stx | stl | stb | sts | stt | stsw | stch | add | sub | mul | div | and | or =>
    exact attempt_replaceDev h fun _ hk => attempt_replaceDev hk fun _ hk => next_inj hk ▸ rfl
  | j => exact next_inj h ▸ rfl
  | jeq | jgt | jlt | rsub => exact branchIf_replaceDev h
  | jsub => exact branchIf_replaceDev (s := s.setReg .L s.regs.PC) h
  | addf | subf | mulf | divf | compf | ldf | stf | lps | sti | ssk => exact noop_replaceDev h

theorem op2Effect_replaceDev {op : Op2} {r1 r2 : BitVec 4} (h : op2Effect r1 r2 op s = .next t) :
    op2Effect r1 r2 op { s with dev := d } = .next { t with dev := d } := by
  cases op with
  | addr | subr | mulr | divr | rmo =>
    unfold op2Effect at h
    exact combineRegs_replaceDev h
  | compr => exact attempt_replaceDev h fun _ hk => attempt_replaceDev hk fun _ hk => next_inj hk ▸ rfl
  | clear | tixr => exact attempt_replaceDev h fun _ hk => next_inj hk ▸ rfl
  | shiftl | shiftr | svc => exact noop_replaceDev h

/-- The address is resolved from registers alone (R92), so the effect starts from the same address with either port. -/
theorem runMem_op34_replaceDev {len : Nat} {m : Mode} {a0 : Word} {op : Op34} (hrd : op ≠ .rd) (hwd : op ≠ .wd)
    (h : runMem len m (op34Effect a0 op) s = .next t) :
    runMem len m (op34Effect a0 op) { s with dev := d } = .next { t with dev := d } :=
  attempt_replaceDev h fun _ => op34Effect_replaceDev hrd hwd

end

/-- Settles O50: formats 1 and 2 never look at the port, and in the formats with an address only RD and WD do. -/
theorem devicesDoNotLeakIntoOtherInstructions : Obligations.DevicesDoNotLeakIntoOtherInstructions := by
  intro i s t d hrd hwd h
  rcases instr_cases i with ⟨op, rfl⟩ | ⟨op, r1, r2, rfl⟩ | ⟨op, m, rfl⟩ | ⟨op, m, rfl⟩ | ⟨op, m, rfl⟩
  · rw [exec_f1] at h ⊢
    exact noop_replaceDev h
  · rw [exec_f2] at h ⊢
    exact op2Effect_replaceDev h
  · rw [exec_sic] at h ⊢
    have hne (o : Op34) (ho : ¬ (op.sicInstr m).IsOp34 o) : op ≠ o := fun he => ho (.inl ⟨m, by simp [he]⟩)
    exact runMem_op34_replaceDev (hne _ hrd) (hne _ hwd) h
  · rw [exec_f3] at h ⊢
    have hne (o : Op34) (ho : ¬ (op.f3Instr m).IsOp34 o) : op ≠ o := fun he => ho (.inr (.inl ⟨m, by simp [he]⟩))
    exact runMem_op34_replaceDev (hne _ hrd) (hne _ hwd) h
  · rw [exec_f4] at h ⊢
    have hne (o : Op34) (ho : ¬ (op.f4Instr m).IsOp34 o) : op ≠ o := fun he => ho (.inr (.inr ⟨m, by simp [he]⟩))
    exact runMem_op34_replaceDev (hne _ hrd) (hne _ hwd) h

end Sys2Proof.Machine
end

section
/-! Proofs about the declared but unimplemented instructions (spec/47_unimplemented_noops.md). What the three formats of
an F3/4 operation share, its opcode byte and its run from the resolved address, is said of every operation; the no-ops
are those whose effect is the notice alone. -/

namespace Sys2Proof.Claims

open Sys2Proof.Machine

/-! ## The three formats of an operation -/

/-- The three formats of an F3/4 operation. -/
def Forms.ofOp34 (op : Op34) : Forms := ⟨(op.sicInstr ·), (op.f3Instr ·), (op.f4Instr ·)⟩

theorem Forms.Each.imp {f : Forms} {P Q : Instr → Nat → Mode → Prop} (hf : f.Each P)
    (h : ∀ i len m, P i len m → Q i len m) : f.Each Q := by
  obtain ⟨hsic, hf3, hf4⟩ := hf
  exact ⟨fun o => h _ _ _ (hsic o), fun o => h _ _ _ (hf3 o), fun o => h _ _ _ (hf4 o)⟩

/-- The formats differ in length and fields and run one effect (42_interpreter_cycle.md R105). -/
theorem Forms.ofOp34_exec (op : Op34) : (Forms.ofOp34 op).Each fun i len m =>
    ∀ s, exec i s = runMem len m (op34Effect s.regs.PC op) s :=
  ⟨exec_sic op, exec_f3 op, exec_f4 op⟩

theorem head?_encode_sic (op : Op34) (o : SicOperand) : (encode (op.sicInstr o)).head? = some op.code := by
  simp [encode, Shape.bytes]

theorem head?_encode_f3 (op : Op34) (o : F3Operand) :
    (encode (op.f3Instr o)).head? = some (opcodeByte op o.abs) := by
  simp [encode, Shape.bytes]

theorem head?_encode_f4 (op : Op34) (o : F4Operand) :
    (encode (op.f4Instr o)).head? = some (opcodeByte op o.abs) := by
  simp [encode, Shape.bytes]

/-- In SIC format the bits n and i are 0, so the opcode stands alone (R68). -/
theorem Forms.ofOp34_hasOpcode (op : Op34) : (Forms.ofOp34 op).HasOpcode op.code :=
  ⟨fun o => (head?_encode_sic op o).trans (congrArg some (opcodeByte_sic op).symm), head?_encode_f3 op,
    head?_encode_f4 op⟩

/-- The address is resolved before any effect, so b = p = 1 is reported for every operation (R91, D14). -/
theorem Forms.ofOp34_invalidBPErrors (op : Op34) : (Forms.ofOp34 op).InvalidBPErrors :=
  (Forms.ofOp34_exec op).imp fun _ _ _ hexec s hinvalid => (hexec s).trans (runMem_invalid hinvalid)

/-! ## The no-ops with an address (R200) -/

/-- The F3/4 operations that are declared and not implemented (R201 to R205, R209, R210, R215 to R217; D13). -/
def unimplementedOps : List Op34 := [.addf, .subf, .mulf, .divf, .compf, .ldf, .stf, .lps, .ssk, .sti]

theorem op34Effect_of_unimplemented {op : Op34} (hop : op ∈ unimplementedOps) (a0 : Word) :
    op34Effect a0 op = noopMem := by
  simp only [unimplementedOps, List.mem_cons, List.not_mem_nil, or_false] at hop
  rcases hop with rfl | rfl | rfl | rfl | rfl | rfl | rfl | rfl | rfl | rfl <;> rfl

/-- A no-op behind a resolved address leaves the advanced PC, the address and the notice (R200, D34). -/
theorem runMem_noopMem {len : Nat} {m : Mode} {s : State} {addr : Word} (h : Resolves m len s addr) :
    runMem len m noopMem s = .next ((s.advance len).noteAddr addr).noteUnimplemented.retire :=
  runMem_ok h

theorem Forms.ofOp34_completes_of_unimplemented {op : Op34} (hop : op ∈ unimplementedOps) :
    (Forms.ofOp34 op).Each fun i len m => ∀ s addr, Resolves m len s addr →
      Completes i s (advanced s len) s.mem (some addr) true := by
  refine (Forms.ofOp34_exec op).imp fun i len m hexec s addr hr => ?_
  have hrun : exec i s = .next ((s.advance len).noteAddr addr).noteUnimplemented.retire := by
    rw [hexec, op34Effect_of_unimplemented hop, runMem_noopMem hr]
  exact hrun

/-- Settles O34: the ten mnemonics with their opcodes are the formats of the ten unimplemented operations, of each of
which the three facts are known. -/
theorem unimplementedMemoryFormsDoNothing : Obligations.UnimplementedMemoryFormsDoNothing := by
  change ∀ p ∈ unimplementedOps.map fun op => (Forms.ofOp34 op, op.code), _
  refine List.forall_mem_map.2 fun op hop => ⟨?opcode, ?invalid, ?completes⟩
  case opcode => exact Forms.ofOp34_hasOpcode op
  case invalid => exact Forms.ofOp34_invalidBPErrors op
  case completes => exact Forms.ofOp34_completes_of_unimplemented hop

end Sys2Proof.Claims
end

section
/-! Proofs about the object reader (spec/48_object_format.md Parts A, B and D). A record's bytes go behind the leftover
of the record before, so a payload cut in two is decoded as the whole would be; and a load looks at nothing of the
machine it replaces, the device port aside. -/

namespace Sys2Proof.Machine

open Sys2Proof.Claims

/-! ## One T record (R228, R229) -/

/-- The address of the first byte of the buffer that a T record at `start` is decoded in: that of the leftover, where
there is one (R228). -/
def Loader.bufferAddr (l : Loader) (start : Nat) : Nat := if l.left = [] then start else l.leftAddr.getD start

/-- The entries and the leftover of a T record, whose payload is decoded behind the leftover of the record before
(R228). -/
def Loader.decodeRecord (l : Loader) (start : Nat) (payload : List Byte) : List (Nat × Entry) × List Byte :=
  decodeStream (l.left ++ payload) (l.bufferAddr start)

@[simp] theorem loadText_mem (s : State) (start : Nat) (p : List Byte) :
    (loadText s start p).mem = s.mem.setBytes start p := rfl

@[simp] theorem loadText_entries (s : State) (start : Nat) (p : List Byte) :
    (loadText s start p).image.entries = s.image.entries.insertAll (s.loader.decodeRecord start p).1 := rfl

@[simp] theorem loadText_left (s : State) (start : Nat) (p : List Byte) :
    (loadText s start p).loader.left = (s.loader.decodeRecord start p).2 := rfl

/-- A T record in a load unit and inside memory is held to one more condition, continuity (R228, R229). -/
theorem readRecord_text {line start : Nat} {rd : Reader} {p : List Byte} (hunit : rd.inUnit = true)
    (hfits : start + p.length ≤ Config.memSize) :
    readRecord line rd (.text start p) =
      if rd.core.loader.left ≠ [] ∧ rd.core.loader.expect ≠ some start then .error (.nonContiguous line)
      else .ok { rd with core := loadText rd.core start p } := by
  simp [readRecord, hunit, hfits]

/-- Settles O54: the two clauses are the two branches of the continuity test. -/
theorem nonContiguousRecordIsRefused : Obligations.NonContiguousRecordIsRefused := by
  intro line rd start p hunit hfits
  rw [readRecord_text hunit hfits]
  refine ⟨fun hleft hexpect => if_pos ⟨hleft, hexpect⟩, fun hcontinues => if_neg ?_⟩
  rintro ⟨hleft, hexpect⟩
  exact hcontinues.elim hleft hexpect

/-! ## A payload cut in two (R228, R230) -/

/-- The leftover ends where the record that continues it starts (R228). -/
theorem Loader.bufferAddr_add_left {l : Loader} {start : Nat} (h : Continues l start) :
    l.bufferAddr start + l.left.length = start := by
  unfold Loader.bufferAddr
  split
  next hleft => simp [hleft]
  next hleft =>
    obtain hnil | ⟨-, a, haddr, hend⟩ := h
    · exact absurd hnil hleft
    · simp [haddr, hend]

/-- The leftover of a record is the end of its buffer, so no longer than the buffer (R67). -/
theorem Loader.decodeRecord_left_length (l : Loader) (start : Nat) (p : List Byte) :
    (l.decodeRecord start p).2.length ≤ l.left.length + p.length :=
  List.length_append ▸ (decodeStream_append (l.left ++ p) [] (l.bufferAddr start)).2

/-- Everything a record that continues the loader does: its leftover ends where its payload ends (R228). -/
theorem loadText_of_continues {s : State} {start : Nat} (h : Continues s.loader start) (p : List Byte) :
    loadText s start p = { s with
      mem := s.mem.setBytes start p
      image := { s.image with
        entries := s.image.entries.insertAll (s.loader.decodeRecord start p).1
        lastByteAddr := if p = [] then s.image.lastByteAddr else some (start + p.length - 1) }
      loader := ⟨(s.loader.decodeRecord start p).2,
        some (start + p.length - (s.loader.decodeRecord start p).2.length), some (start + p.length)⟩ } := by
  have hend : s.loader.bufferAddr start + (s.loader.left ++ p).length = start + p.length := by
    rw [List.length_append, ← Nat.add_assoc, Loader.bufferAddr_add_left h]
  have haddr : (loadText s start p).loader.leftAddr =
      some (start + p.length - (s.loader.decodeRecord start p).2.length) := by
    rw [← hend]
    rfl
  rw [← haddr]
  rfl

theorem loadText_continues {s : State} {start : Nat} (h : Continues s.loader start) (p : List Byte) :
    Continues (loadText s start p).loader (start + p.length) := by
  have hbuffer := Loader.bufferAddr_add_left h
  have hleft := s.loader.decodeRecord_left_length start p
  rw [loadText_of_continues h]
  exact .inr ⟨rfl, _, rfl, Nat.sub_add_cancel (by omega)⟩

/-- The buffer of the record that follows begins behind what was decoded of the buffer before. -/
theorem bufferAddr_loadText {s : State} {start : Nat} (h : Continues s.loader start) (p : List Byte) :
    (loadText s start p).loader.bufferAddr (start + p.length) =
      s.loader.bufferAddr start + ((s.loader.left ++ p).length - (s.loader.decodeRecord start p).2.length) := by
  have hbuffer := Loader.bufferAddr_add_left h
  have hnext := Loader.bufferAddr_add_left (loadText_continues h p)
  have hleft := s.loader.decodeRecord_left_length start p
  rw [loadText_left] at hnext
  rw [List.length_append]
  omega

/-- A payload decodes as its first part and then, behind the leftover of that part, its second (R228). -/
theorem decodeRecord_append {s : State} {start : Nat} (h : Continues s.loader start) (p q : List Byte) :
    s.loader.decodeRecord start (p ++ q) =
      ((s.loader.decodeRecord start p).1 ++ ((loadText s start p).loader.decodeRecord (start + p.length) q).1,
        ((loadText s start p).loader.decodeRecord (start + p.length) q).2) := by
  have hcut := (decodeStream_append (s.loader.left ++ p) q (s.loader.bufferAddr start)).1
  have haddr := bufferAddr_loadText h p
  rw [Loader.decodeRecord] at haddr
  rw [← haddr, List.append_assoc] at hcut
  exact hcut

/-- Two records that follow on load what one record with both payloads loads (R228, R230). -/
theorem loadText_append {s : State} {start : Nat} (h : Continues s.loader start) (p q : List Byte) :
    loadText (loadText s start p) (start + p.length) q = loadText s start (p ++ q) := by
  have hlast (last : Option Nat) :
      (if q = [] then (if p = [] then last else some (start + p.length - 1))
          else some (start + p.length + q.length - 1))
        = if p ++ q = [] then last else some (start + (p ++ q).length - 1) := by
    cases q <;> simp [Nat.add_assoc]
  rw [loadText_of_continues (loadText_continues h p), loadText_of_continues h (p ++ q), decodeRecord_append h,
    Entries.insertAll_append, Memory.setBytes_append, ← hlast, List.length_append, ← Nat.add_assoc]
  rfl

/-- Settles O55: the two records are decoded like one, and each leaves the loader that the next continues. -/
theorem splitRecordsLoadAsOne : Obligations.SplitRecordsLoadAsOne :=
  ⟨fun _ _ p q h => loadText_append h p q, fun _ _ p h => loadText_continues h p, fun _ _ => .inl rfl⟩

/-! ## A load replaces the machine whole or not at all (R226, R239) -/

/-- A text loads when all its lines are read, there was a record, and the last load unit is closed (R232). -/
theorem loadObject_eq_ok_iff {t : Text} {s u : State} :
    loadObject t s = .ok u ↔ ∃ rd, readLines 1 (Reader.start s) (splitLines t []) = .ok rd
      ∧ rd.anyRecord = true ∧ rd.inUnit = false ∧ u = rd.core.commitLoad (rd.entry.getD 0) := by
  unfold loadObject
  cases readLines 1 (Reader.start s) (splitLines t []) with
  | error e => simp
  | ok rd => cases hany : rd.anyRecord <;> cases hunit : rd.inUnit <;> simp [hany, hunit, eq_comm (a := u)]

theorem loadAssembled_eq_ok_iff {p : AsmProgram} {s u : State} :
    loadAssembled p s = .ok u ↔ ∃ t, loadItems s.resetMachine p.lines = .ok t ∧ u = t.commitLoad p.entry := by
  unfold loadAssembled
  cases loadItems s.resetMachine p.lines <;> simp [eq_comm (a := u)]

/-- A load starts from the reset machine, so only the device port goes from the old state to the new (R226). -/
theorem loadObject_ok_dev (d : DevicePort) {t : Text} {s u : State} (h : loadObject t s = .ok u) :
    loadObject t { State.reset with dev := d } = .ok { u with dev := d } := by
  obtain ⟨rd, hread, hany, hunit, rfl⟩ := loadObject_eq_ok_iff.mp h
  exact loadObject_eq_ok_iff.mpr ⟨_, readLines_dev d _ hread, hany, hunit, rfl⟩

theorem loadAssembled_ok_dev (d : DevicePort) {p : AsmProgram} {s u : State} (h : loadAssembled p s = .ok u) :
    loadAssembled p { State.reset with dev := d } = .ok { u with dev := d } := by
  obtain ⟨t, hitems, rfl⟩ := loadAssembled_eq_ok_iff.mp h
  have hitems' : loadItems { State.reset with dev := d } p.lines = .ok { t with dev := d } :=
    loadItems_dev (s := s.resetMachine) d p.lines hitems
  exact loadAssembled_eq_ok_iff.mpr ⟨_, hitems', rfl⟩

/-- The two answers of the command `loadObject` (R110). -/
theorem perform_loadObject_cases (t : Text) (s : State) :
    (∃ u, loadObject t s = .ok u ∧ perform (.loadObject t) s = (u, .loaded u.programImage))
      ∨ ∃ e, perform (.loadObject t) s = (s, .formatError e) := by
  cases hload : loadObject t s with
  | ok u => exact .inl ⟨u, rfl, by simp only [perform, hload]⟩
  | error e => exact .inr ⟨e, by simp only [perform, hload]⟩

/-- The two answers of the command `loadAssembly` (R110, R239). -/
theorem perform_loadAssembly_cases (a : Assembly) (s : State) :
    (∃ p u, a = .program p ∧ loadAssembled p s = .ok u
        ∧ perform (.loadAssembly a) s = (u, .assembled (p.programImage u) p.symbols))
      ∨ ∃ e, perform (.loadAssembly a) s = (s, .assemblyError e) := by
  cases a with
  | failed e => exact .inr ⟨e, rfl⟩
  | program p =>
    cases hload : loadAssembled p s with
    | ok u => exact .inl ⟨p, u, rfl, hload, by simp only [perform, hload]⟩
    | error e => exact .inr ⟨e, by simp only [perform, hload]⟩

/-- Settles O52: a command that answers an error has kept the state, and a load reads the device port alone. -/
theorem failedLoadChangesNothing : Obligations.FailedLoadChangesNothing := by
  refine ⟨fun t s e h => ?objectError, fun t s p h => ?objectLoaded, fun t s u h => loadObject_ok_dev _ h,
    fun a s e h => ?assemblyError, fun e s => rfl, fun a s i symbols h => ?assembled,
    fun p s u h => loadAssembled_ok_dev _ h⟩
  case objectError =>
    obtain ⟨u, -, hok⟩ | ⟨e', herr⟩ := perform_loadObject_cases t s
    · cases (congrArg Prod.snd hok).symm.trans h
    · exact congrArg Prod.fst herr
  case objectLoaded =>
    obtain ⟨u, hload, hok⟩ | ⟨e', herr⟩ := perform_loadObject_cases t s
    · rw [hok, hload]
    · cases (congrArg Prod.snd herr).symm.trans h
  case assemblyError =>
    obtain ⟨p, u, -, -, hok⟩ | ⟨e', herr⟩ := perform_loadAssembly_cases a s
    · cases (congrArg Prod.snd hok).symm.trans h
    · exact congrArg Prod.fst herr
  case assembled =>
    obtain ⟨p, u, ha, hload, hok⟩ | ⟨e', herr⟩ := perform_loadAssembly_cases a s
    · exact ⟨p, ha, by rw [hok, hload]⟩
    · cases (congrArg Prod.snd herr).symm.trans h

end Sys2Proof.Machine
end

section
/-! Proofs about the object writer (spec/48_object_format.md Part C). What the writer emits is the lines of records, and
each line is parsed to its record. The T records load what one record per entry would load, because a payload cut in two
loads the same, and the bytes of one entry decode to that entry. -/

namespace Sys2Proof.Machine

open Sys2Proof.Claims

/-! ## A record and its line (R220 to R225) -/

/-- The line of a record, without its line feed. -/
def Record.line : Record → Text
  | .header name start len => 'H' :: name ++ hexDigits 6 start.toNat ++ hexDigits 6 len.toNat
  | .text start payload => 'T' :: (hexDigits 6 start ++ (hexDigits 2 payload.length ++ bytesHex payload))
  | .modification addr k => 'M' :: (hexDigits 6 addr ++ hexDigits 2 k)
  | .ending e => 'E' :: toHex e

/-- The fields of the record fit the places a line has for them (R222 to R225). -/
def Record.Writable : Record → Prop
  | .header name _ _ => name.length = 6 ∧ '\n' ∉ name
  | .text start payload => start < 16 ^ 6 ∧ payload.length < 16 ^ 2
  | .modification addr k => addr < 16 ^ 6 ∧ (k = 3 ∨ k = 5)
  | .ending _ => True

theorem hexField6_hexDigits {n : Nat} (h : n < 16 ^ 6) (t : Text) : hexField6? (hexDigits 6 n ++ t) = some n := by
  have htake : (hexDigits 6 n ++ t).take 6 = hexDigits 6 n := List.take_left' (length_hexDigits 6 n)
  simp [hexField6?, htake, hexNumber_hexDigits (by decide) h]

@[simp] theorem length_bytesHex (bs : List Byte) : (bytesHex bs).length = 2 * bs.length := by
  induction bs with
  | nil => rfl
  | cons b bs ih => simp [bytesHex, ih]; omega

/-- Each byte is read back from its two digits. -/
theorem hexBytes_bytesHex (bs : List Byte) : hexBytes? (bytesHex bs) = some bs := by
  induction bs with
  | nil => rfl
  | cons b bs ih =>
    have hbyte : hexNumber? (hexDigits 2 b.toNat) = some b.toNat := hexNumber_hexDigits (by decide) b.isLt
    simp only [hexDigits] at hbyte
    simp only [bytesHex, hexDigits, List.cons_append, List.nil_append, hexBytes?, hbyte, ih, BitVec.ofNat_toNat,
      BitVec.setWidth_eq]

theorem parseHeader_fields {name : Text} (h : name.length = 6) (start len : Word) :
    parseHeader (name ++ hexDigits 6 start.toNat ++ hexDigits 6 len.toNat) = some (.header name start len) := by
  have htake : (name ++ hexDigits 6 start.toNat ++ hexDigits 6 len.toNat).take 6 = name := by
    rw [List.append_assoc]
    exact List.take_left' h
  have hstart : (name ++ hexDigits 6 start.toNat ++ hexDigits 6 len.toNat).drop 6
      = hexDigits 6 start.toNat ++ hexDigits 6 len.toNat := by
    rw [List.append_assoc]
    exact List.drop_left' h
  have hlen : (name ++ hexDigits 6 start.toNat ++ hexDigits 6 len.toNat).drop 12 = hexDigits 6 len.toNat ++ [] := by
    rw [List.append_nil]
    exact List.drop_left' (by simp [h])
  simp only [parseHeader, htake, hstart, hlen, hexField6_hexDigits start.isLt, hexField6_hexDigits len.isLt]
  simp [h]

theorem parseText_fields {start : Nat} {payload : List Byte} (hstart : start < 16 ^ 6)
    (hlen : payload.length < 16 ^ 2) :
    parseText (hexDigits 6 start ++ (hexDigits 2 payload.length ++ bytesHex payload)) = some (.text start payload) := by
  have hdigits : hexNumber? (hexDigits 2 payload.length) = some payload.length := hexNumber_hexDigits (by decide) hlen
  have hcount : ((hexDigits 6 start ++ (hexDigits 2 payload.length ++ bytesHex payload)).drop 6).take 2
      = hexDigits 2 payload.length := by
    rw [List.drop_left' (length_hexDigits 6 start), List.take_left' (length_hexDigits 2 _)]
  have hbytes : (hexDigits 6 start ++ (hexDigits 2 payload.length ++ bytesHex payload)).drop 8 = bytesHex payload := by
    rw [← List.append_assoc]
    exact List.drop_left' (by simp)
  simp only [parseText, hexField6_hexDigits hstart, hcount, hdigits, hbytes, hexBytes_bytesHex]
  exact if_pos (by simp only [List.length_append, length_hexDigits, length_bytesHex]; omega)

theorem parseModification_fields {addr k : Nat} (haddr : addr < 16 ^ 6) (hk : k = 3 ∨ k = 5) :
    parseModification (hexDigits 6 addr ++ hexDigits 2 k) = some (.modification addr k) := by
  have hnumber : hexNumber? (hexDigits 2 k) = some k := hexNumber_hexDigits (by decide) (by omega)
  have hdrop : (hexDigits 6 addr ++ hexDigits 2 k).drop 6 = hexDigits 2 k := List.drop_left' (length_hexDigits 6 addr)
  simp [parseModification, hexField6_hexDigits haddr, hdrop, hnumber, hk]

theorem parseEnding_field (e : Word) : parseEnding (toHex e) = some (.ending e) := by
  have hfield := hexField6_hexDigits e.isLt []
  rw [List.append_nil] at hfield
  simp [parseEnding, toHex, hfield]

/-- A record whose fields fit is read back from its line. -/
theorem parseRecord_line {r : Record} (h : r.Writable) : parseRecord r.line = some r := by
  cases r with
  | header name start len => exact parseHeader_fields h.1 start len
  | text start payload => exact parseText_fields h.1 h.2
  | modification addr k => exact parseModification_fields h.1 h.2
  | ending e => exact parseEnding_field e

/-! ## The lines of a text (R221) -/

/-- A text that the reader takes as one line when a line feed stands behind it. -/
def IsLine (t : Text) : Prop := '\n' ∉ t ∧ t.getLast? ≠ some '\r'

/-- Neither a line feed nor a carriage return. -/
def NoBreak (c : Char) : Prop := c ≠ '\n' ∧ c ≠ '\r'

theorem noBreak_hexDigit {n : Nat} (h : n < 16) : NoBreak (hexDigit n) := by
  revert n
  unfold NoBreak
  decide

theorem noBreak_hexDigits (d n : Nat) : ∀ c ∈ hexDigits d n, NoBreak c := by
  induction d with
  | zero => simp [hexDigits]
  | succ d ih => exact List.forall_mem_cons.mpr ⟨noBreak_hexDigit (Nat.mod_lt _ (by decide)), ih⟩

theorem noBreak_bytesHex (bs : List Byte) : ∀ c ∈ bytesHex bs, NoBreak c := by
  induction bs with
  | nil => simp [bytesHex]
  | cons b bs ih => exact List.forall_mem_append.mpr ⟨noBreak_hexDigits 2 _, ih⟩

/-- Characters without line feed are a line when the last of them are no breaks. -/
theorem isLine_append {t u : Text} (ht : '\n' ∉ t) (hu : ∀ c ∈ u, NoBreak c) (hne : u ≠ []) : IsLine (t ++ u) := by
  constructor
  · intro hmem
    rcases List.mem_append.mp hmem with hmem | hmem
    · exact ht hmem
    · exact (hu _ hmem).1 rfl
  · rw [List.getLast?_append_of_ne_nil _ hne]
    intro hlast
    exact (hu _ (List.mem_of_getLast? hlast)).2 rfl

theorem Record.isLine_line {r : Record} (h : r.Writable) : IsLine r.line := by
  cases r with
  | header name start len =>
    obtain ⟨-, hname⟩ := h
    refine isLine_append ?_ (noBreak_hexDigits 6 _) (by simp [hexDigits])
    intro hmem
    rcases List.mem_append.mp hmem with hmem | hmem
    · exact hname (by simpa using hmem)
    · exact (noBreak_hexDigits 6 _ _ hmem).1 rfl
  | text start payload =>
    have hpayload : ∀ c ∈ hexDigits 2 payload.length ++ bytesHex payload, NoBreak c :=
      List.forall_mem_append.mpr ⟨noBreak_hexDigits 2 _, noBreak_bytesHex payload⟩
    exact isLine_append (t := ['T']) (by decide) (List.forall_mem_append.mpr ⟨noBreak_hexDigits 6 _, hpayload⟩)
      (by simp [hexDigits])
  | modification addr k =>
    exact isLine_append (t := ['M']) (by decide)
      (List.forall_mem_append.mpr ⟨noBreak_hexDigits 6 _, noBreak_hexDigits 2 _⟩) (by simp [hexDigits])
  | ending e => exact isLine_append (t := ['E']) (by decide) (noBreak_hexDigits 6 _) (by simp [hexDigits])

theorem splitLines_append {t : Text} (h : '\n' ∉ t) (rest acc : Text) :
    splitLines (t ++ rest) acc = splitLines rest (t.reverse ++ acc) := by
  induction t generalizing acc with
  | nil => rfl
  | cons c t ih =>
    obtain ⟨hc, ht⟩ := not_or.mp (List.mem_cons.not.mp h)
    simp [splitLines, Ne.symm hc, ih ht]

theorem splitLines_line {t : Text} (h : IsLine t) (rest : Text) :
    splitLines (t ++ '\n' :: rest) [] = t :: splitLines rest [] := by
  obtain ⟨hfeed, hreturn⟩ := h
  simp [splitLines_append hfeed, splitLines, hreturn]

/-- The text of records, each on a line of its own. -/
def recordsText (rs : List Record) : Text := rs.flatMap fun r => r.line ++ ['\n']

theorem recordsText_cons (r : Record) (rs : List Record) :
    recordsText (r :: rs) = r.line ++ '\n' :: recordsText rs := by
  simp [recordsText]

theorem recordsText_append (rs qs : List Record) : recordsText (rs ++ qs) = recordsText rs ++ recordsText qs := by
  simp [recordsText]

/-- The text is cut into the lines it was made of, and the empty line behind the last line feed. -/
theorem splitLines_recordsText {rs : List Record} (h : ∀ r ∈ rs, r.Writable) :
    splitLines (recordsText rs) [] = rs.map Record.line ++ [[]] := by
  induction rs with
  | nil => rfl
  | cons r rs ih =>
    obtain ⟨hr, hrs⟩ := List.forall_mem_cons.mp h
    rw [recordsText_cons, splitLines_line (Record.isLine_line hr), ih hrs]
    rfl

/-! ## Records that are all accepted (R226, R232) -/

/-- The reader takes the records one after the other, on whatever lines they stand. -/
inductive Reads : Reader → List Record → Reader → Prop
  | nil (rd : Reader) : Reads rd [] rd
  | cons {rd rd' rd'' : Reader} {r : Record} {rs : List Record} (h : ∀ line, readRecord line rd r = .ok rd')
      (hrest : Reads rd' rs rd'') : Reads rd (r :: rs) rd''

theorem Reads.append {rd rd' rd'' : Reader} {rs qs : List Record} (h : Reads rd rs rd') (h' : Reads rd' qs rd'') :
    Reads rd (rs ++ qs) rd'' := by
  induction h with
  | nil => exact h'
  | cons hr _ ih => exact .cons hr (ih h')

/-- The lines of accepted records are read, and the empty line behind them is skipped (R221). -/
theorem Reads.readLines {rd rd' : Reader} {rs : List Record} (h : Reads rd rs rd') (hw : ∀ r ∈ rs, r.Writable)
    (line : Nat) : readLines line rd (rs.map Record.line ++ [[]]) = .ok rd' := by
  induction h generalizing line with
  | nil => rfl
  | @cons rd rd' rd'' r rs hr _ ih =>
    obtain ⟨hwr, hws⟩ := List.forall_mem_cons.mp hw
    have hne : r.line ≠ [] := by cases r <;> simp [Record.line]
    simp only [List.map_cons, List.cons_append, Machine.readLines, hne, if_false, parseRecord_line hwr, hr, ih hws]

/-- A text of accepted records loads, where they close their load unit (R232). -/
theorem Reads.loadObject {s : State} {rd : Reader} {rs : List Record} (h : Reads (Reader.start s) rs rd)
    (hw : ∀ r ∈ rs, r.Writable) (hany : rd.anyRecord = true) (hunit : rd.inUnit = false) :
    loadObject (recordsText rs) s = .ok (rd.core.commitLoad (rd.entry.getD 0)) :=
  loadObject_eq_ok_iff.mpr ⟨rd, by rw [splitLines_recordsText hw]; exact h.readLines hw 1, hany, hunit, rfl⟩

/-- M records have no effect (D22). -/
theorem reads_modifications {rd : Reader} (h : rd.inUnit = true) (ms : List (Nat × Nat)) :
    Reads rd (ms.map fun m => .modification m.1 m.2) rd := by
  induction ms with
  | nil => exact .nil rd
  | cons m ms ih => exact .cons (fun line => by simp [readRecord, h]) ih

/-! ## Payloads that leave nothing over (R228) -/

/-- The bytes end where an instruction or an Unknown/data byte ends. -/
def Whole (p : List Byte) : Prop := ∀ a, (decodeStream p a).2 = []

theorem whole_append {p q : List Byte} (hp : Whole p) (hq : Whole q) : Whole (p ++ q) := by
  intro a
  have hcut := (decodeStream_append p q a).1
  rw [hp a, List.nil_append] at hcut
  rw [hcut]
  exact hq _

/-- Without a leftover a record decodes its payload alone (R228). -/
theorem Loader.decodeRecord_of_left_nil {l : Loader} (h : l.left = []) (start : Nat) (p : List Byte) :
    l.decodeRecord start p = decodeStream p start := by
  simp [Loader.decodeRecord, Loader.bufferAddr, h]

theorem loadText_left_nil {s : State} {p : List Byte} (hs : s.loader.left = []) (hp : Whole p) (start : Nat) :
    (loadText s start p).loader.left = [] := by
  rw [loadText_left, Loader.decodeRecord_of_left_nil hs, hp]

/-- The state after several T records, given by start address and payload. -/
def loadTexts (s : State) (runs : List (Nat × List Byte)) : State := runs.foldl (fun t r => loadText t r.1 r.2) s

/-- What makes the reader accept a T record and leaves the loader empty. -/
structure Loadable (r : Nat × List Byte) : Prop where
  fits : r.1 + r.2.length ≤ Config.memSize
  short : r.2.length < 16 ^ 2
  whole : Whole r.2

theorem reads_texts {rd : Reader} {runs : List (Nat × List Byte)} (hunit : rd.inUnit = true)
    (hleft : rd.core.loader.left = []) (h : ∀ r ∈ runs, Loadable r) :
    Reads rd (runs.map fun r => .text r.1 r.2) { rd with core := loadTexts rd.core runs } := by
  induction runs generalizing rd with
  | nil => exact .nil rd
  | cons r runs ih =>
    obtain ⟨hr, hruns⟩ := List.forall_mem_cons.mp h
    refine .cons (fun line => ?_) (ih (rd := { rd with core := loadText rd.core r.1 r.2 }) hunit
      (loadText_left_nil hleft hr.whole r.1) hruns)
    simp [readRecord_text hunit hr.fits, hleft]

/-! ## The cut into records (R237) -/

/-- One payload for each entry. -/
def Entries.payloads (es : Entries) : List (Nat × List Byte) := es.map fun q => (q.1, q.2.bytes)

theorem textRuns_loadable {start : Nat} {p : List Byte} {es : Entries} (hp : Loadable (start, p))
    (hes : ∀ r ∈ es.payloads, Loadable r) : ∀ r ∈ textRuns start p es, Loadable r := by
  induction es generalizing start p with
  | nil => simpa [textRuns] using hp
  | cons q es ih =>
    obtain ⟨a, e⟩ := q
    obtain ⟨he, hrest⟩ := List.forall_mem_cons.mp hes
    unfold textRuns
    split
    next hjoin =>
      obtain ⟨haddr, hmax⟩ := hjoin
      have hfits := he.fits
      refine ih ⟨?_, ?_, whole_append hp.whole he.whole⟩ hrest
      · simp only [List.length_append] at hfits ⊢
        omega
      · simp only [List.length_append, Config.maxTextPayload] at hmax ⊢
        omega
    next => exact List.forall_mem_cons.mpr ⟨hp, ih he hrest⟩

/-- However the entries are put together in records, they load as if each had a record of its own (R228, R237). -/
theorem loadTexts_textRuns {s : State} {start : Nat} {p : List Byte} {es : Entries} (hs : s.loader.left = [])
    (hp : Whole p) (hes : ∀ r ∈ es.payloads, Whole r.2) :
    loadTexts s (textRuns start p es) = loadTexts (loadText s start p) es.payloads := by
  induction es generalizing s start p with
  | nil => rfl
  | cons q es ih =>
    obtain ⟨a, e⟩ := q
    obtain ⟨he, hrest⟩ := List.forall_mem_cons.mp hes
    unfold textRuns
    split
    next hjoin =>
      obtain ⟨rfl, -⟩ := hjoin
      rw [ih hs (whole_append hp he) hrest, ← loadText_append (.inl hs)]
      rfl
    next => exact ih (loadText_left_nil hs hp start) he hrest

/-! ## What the records of the entries load (R228, R233) -/

/-- The entry is what decoding makes (R66, R67). -/
def entryValid : Entry → Bool
  | .ins i => i.wellFormed
  | .unknown b => illegalFirstByte b

theorem Entries.valid_iff (es : Entries) : es.valid = true ↔ ∀ q ∈ es, entryValid q.2 = true := by
  rw [Entries.valid, List.all_eq_true]
  refine forall₂_congr fun q _ => ?_
  cases q.2 <;> rfl

/-- The bytes of a valid entry decode to that entry. -/
theorem decodeStream_bytes {e : Entry} (h : entryValid e = true) (a : Nat) :
    decodeStream e.bytes a = ([(a, e)], []) := by
  cases e with
  | ins i => exact decodeStream_ins (decode_encode h) a
  | unknown b => exact decodeStream_unknown h [] a

theorem whole_bytes {e : Entry} (h : entryValid e = true) : Whole e.bytes := fun a => by rw [decodeStream_bytes h]

theorem loadText_bytes_entries {s : State} {e : Entry} (hs : s.loader.left = []) (h : entryValid e = true) (a : Nat) :
    (loadText s a e.bytes).image.entries = s.image.entries.insert a e := by
  rw [loadText_entries, Loader.decodeRecord_of_left_nil hs, decodeStream_bytes h]
  rfl

theorem loadTexts_payloads_entries {s : State} {es : Entries} (hs : s.loader.left = [])
    (h : ∀ q ∈ es, entryValid q.2 = true) :
    (loadTexts s es.payloads).image.entries = s.image.entries.insertAll es := by
  induction es generalizing s with
  | nil => rfl
  | cons q es ih =>
    obtain ⟨a, e⟩ := q
    obtain ⟨he, hes⟩ := List.forall_mem_cons.mp h
    have hrest := ih (loadText_left_nil hs (whole_bytes he) a) hes
    rw [loadText_bytes_entries hs he] at hrest
    exact hrest

/-- An entry above all others is put behind them. -/
theorem Entries.insert_of_lt {es : Entries} {a : Nat} (h : ∀ q ∈ es, q.1 < a) (e : Entry) :
    es.insert a e = es ++ [(a, e)] := by
  induction es with
  | nil => rfl
  | cons q es ih =>
    obtain ⟨k, x⟩ := q
    obtain ⟨hk, hes⟩ := List.forall_mem_cons.mp h
    have hlow : ¬ a < k := Nat.lt_asymm hk
    have hne : a ≠ k := Nat.ne_of_gt hk
    simp [Entries.insert, hlow, hne, ih hes]

theorem Entries.insertAll_of_lt {es fs : Entries} (hf : fs.wf = true) (h : ∀ p ∈ es, ∀ q ∈ fs, p.1 < q.1) :
    es.insertAll fs = es ++ fs := by
  induction fs generalizing es with
  | nil => simp [Entries.insertAll]
  | cons q fs ih =>
    obtain ⟨a, e⟩ := q
    obtain ⟨-, hwf, habove⟩ := (Entries.wf_cons a e fs).mp hf
    have hlast : ∀ p ∈ es, p.1 < a := fun p hp => h p hp (a, e) List.mem_cons_self
    rw [Entries.insertAll, Entries.insert_of_lt hlast, ih hwf, List.append_assoc, List.singleton_append]
    refine List.forall_mem_append.mpr ⟨fun p hp q hq => h p hp q (List.mem_cons_of_mem _ hq), ?_⟩
    exact List.forall_mem_singleton.mpr habove

/-- Entries in canonical form, set one after the other, are those entries. -/
theorem Entries.insertAll_nil {es : Entries} (h : es.wf = true) : Entries.insertAll [] es = es :=
  Entries.insertAll_of_lt h (by simp)

/-! ## What the records put into memory (R228) -/

/-- Bytes that were written are read. -/
theorem Memory.getBytes_setBytes {m : Memory} {a : Nat} {bs : List Byte} (hm : m.wf = true)
    (hfits : a + bs.length ≤ Config.memSize) : (m.setBytes a bs).getBytes a bs.length = bs := by
  refine List.ext_getElem (by simp) fun k hk hk' => ?_
  have hread := Memory.getBytes_getD (m.setBytes a bs) a bs.length k hk'
  rw [Memory.get_setBytes hm hfits, if_pos (by omega), Nat.add_sub_cancel_left] at hread
  simpa [hk'] using hread

/-- Records above a byte leave it as it is. -/
theorem loadTexts_get_below {s : State} {runs : List (Nat × List Byte)} {b : Nat} (hm : s.mem.wf = true)
    (hfits : ∀ r ∈ runs, r.1 + r.2.length ≤ Config.memSize) (h : ∀ r ∈ runs, b < r.1) :
    (loadTexts s runs).mem.get b = s.mem.get b := by
  induction runs generalizing s with
  | nil => rfl
  | cons r runs ih =>
    obtain ⟨hr, hruns⟩ := List.forall_mem_cons.mp hfits
    obtain ⟨hb, hbs⟩ := List.forall_mem_cons.mp h
    have hrest := ih (s := loadText s r.1 r.2) (Memory.wf_setBytes hm hr) hruns hbs
    rw [loadText_mem, Memory.get_setBytes hm hr, if_neg (by omega)] at hrest
    exact hrest

/-- The first of canonical disjoint entries ends below all others. -/
theorem disjoint_cons {a : Nat} {e : Entry} {es : Entries} (hwf : Entries.wf ((a, e) :: es) = true)
    (h : Claims.Disjoint ((a, e) :: es)) : (∀ q ∈ es, a + e.length ≤ q.1) ∧ Claims.Disjoint es := by
  cases es with
  | nil => exact ⟨by simp, trivial⟩
  | cons q es =>
    obtain ⟨b, f⟩ := q
    obtain ⟨hend, hrest⟩ := h
    obtain ⟨-, hwf', -⟩ := (Entries.wf_cons a e _).mp hwf
    obtain ⟨-, -, habove⟩ := (Entries.wf_cons b f es).mp hwf'
    exact ⟨List.forall_mem_cons.mpr ⟨hend, fun q hq => hend.trans (habove q hq).le⟩, hrest⟩

/-- Of disjoint entries in address order none writes over the bytes of one before it. -/
theorem loadTexts_payloads_getBytes {s : State} {es : Entries} (hm : s.mem.wf = true) (hwf : es.wf = true)
    (hdisjoint : Claims.Disjoint es) (hfits : ∀ q ∈ es, q.1 + q.2.length ≤ Config.memSize) :
    ∀ q ∈ es, (loadTexts s es.payloads).mem.getBytes q.1 q.2.length = q.2.bytes := by
  induction es generalizing s with
  | nil => simp
  | cons q es ih =>
    obtain ⟨a, e⟩ := q
    obtain ⟨-, hwf', -⟩ := (Entries.wf_cons a e es).mp hwf
    obtain ⟨hbehind, hdisjoint'⟩ := disjoint_cons hwf hdisjoint
    obtain ⟨he, hes⟩ := List.forall_mem_cons.mp hfits
    rw [← Entry.bytes_length] at he
    have hmem : (loadText s a e.bytes).mem.wf = true := Memory.wf_setBytes hm he
    refine List.forall_mem_cons.mpr ⟨?_, ih hmem hwf' hdisjoint' hes⟩
    have hkept : ∀ b, a ≤ b → b < a + e.length →
        (loadTexts (loadText s a e.bytes) (Entries.payloads es)).mem.get b = (loadText s a e.bytes).mem.get b := by
      intro b _ hb
      refine loadTexts_get_below hmem ?_ ?_
      · exact List.forall_mem_map.mpr fun q hq => Entry.bytes_length q.2 ▸ hes q hq
      · exact List.forall_mem_map.mpr fun q hq => hb.trans_le (hbehind q hq)
    exact (Memory.getBytes_congr hkept).trans (Entry.bytes_length e ▸ Memory.getBytes_setBytes hm he)

/-! ## The records of an object file (R235 to R237) -/

/-- The payloads of the T records, with their start addresses. -/
def Entries.runs : Entries → List (Nat × List Byte)
  | [] => []
  | (a, e) :: rest => textRuns a e.bytes rest

/-- Address and half-byte length of the M records. -/
def ProgramImage.modifications (p : ProgramImage) : List (Nat × Nat) :=
  p.image.entries.flatMap fun q =>
    if p.fromSymbol.contains q.1 then ((modificationLength? q.2).map fun k => (q.1 + 1, k)).toList else []

/-- The records of an object file. -/
def ProgramImage.records (p : ProgramImage) : List Record :=
  .header (nameField p.name) (BitVec.ofNat 24 p.image.entries.lowest)
      (BitVec.ofNat 24 (p.image.entries.afterHighest - p.image.entries.lowest))
    :: ((p.image.entries.runs.map fun r => .text r.1 r.2) ++ (p.modifications.map fun m => .modification m.1 m.2)
      ++ [.ending p.image.entry])

theorem textRecords_eq (es : Entries) : textRecords es = recordsText (es.runs.map fun r => .text r.1 r.2) := by
  cases es with
  | nil => rfl
  | cons q es => simp [textRecords, Entries.runs, recordsText, List.flatMap_map, textRecord, Record.line]

theorem modificationRecords_eq (p : ProgramImage) :
    modificationRecords p = recordsText (p.modifications.map fun m => .modification m.1 m.2) := by
  simp only [modificationRecords, ProgramImage.modifications, recordsText, List.flatMap_map, List.flatMap_assoc]
  congr 1
  funext q
  split
  next => cases modificationLength? q.2 <;> simp [Record.line]
  next => rfl

theorem Entries.afterHighest_le {es : Entries} (h : ∀ q ∈ es, q.1 + q.2.length ≤ Config.memSize) :
    es.afterHighest ≤ Config.memSize :=
  List.foldlRecOn es _ (motive := fun top => top ≤ Config.memSize) (Nat.zero_le _) fun _ htop q hq =>
    max_le htop (h q hq)

theorem Entries.lowest_lt {es : Entries} (h : es.wf = true) : es.lowest < Config.memSize := by
  cases es with
  | nil => decide
  | cons q es => exact ((Entries.wf_cons q.1 q.2 es).mp h).1

/-- What the writer emits is the lines of its records. -/
theorem emitObject_eq {p : ProgramImage} (hwf : p.image.entries.wf = true)
    (hfits : ∀ q ∈ p.image.entries, q.1 + q.2.length ≤ Config.memSize) : emitObject p = recordsText p.records := by
  have hlow := Entries.lowest_lt hwf
  have hhigh := Entries.afterHighest_le hfits
  unfold Config.memSize at hlow hhigh
  have hstart : (BitVec.ofNat 24 p.image.entries.lowest).toNat = p.image.entries.lowest :=
    Nat.mod_eq_of_lt (by omega)
  have hlen : (BitVec.ofNat 24 (p.image.entries.afterHighest - p.image.entries.lowest)).toNat
      = p.image.entries.afterHighest - p.image.entries.lowest := Nat.mod_eq_of_lt (by omega)
  rw [ProgramImage.records, recordsText_cons, recordsText_append, recordsText_append, ← textRecords_eq,
    ← modificationRecords_eq, Record.line, hstart, hlen]
  simp [emitObject, recordsText, Record.line]

/-! ## Each of these records fits its line (R222 to R224) -/

/-- A short name is padded with spaces and a longer one is cut, to six characters (R222). -/
theorem nameField_writable {name : Text} (h : '\n' ∉ name) : (nameField name).length = 6 ∧ '\n' ∉ nameField name := by
  constructor
  · simp [nameField]
  · intro hmem
    simpa [h] using List.mem_of_mem_take hmem

theorem modificationLength_eq {e : Entry} {k : Nat} (h : modificationLength? e = some k) : k = 3 ∨ k = 5 := by
  cases e with
  | unknown b => cases h
  | ins i =>
    simp only [modificationLength?] at h
    cases hshape : i.shape with
    | f3 op m =>
      simp only [hshape, Option.ite_none_right_eq_some, Option.some.injEq] at h
      exact .inl h.2.symm
    | f4 op m =>
      simp only [hshape, Option.ite_none_right_eq_some, Option.some.injEq] at h
      exact .inr h.2.symm
    | f1 | f2 | sic => simp [hshape] at h

/-- An M record stands for an entry of the image, one byte behind its address, with a length of 3 or 5 (R224, R236). -/
theorem mem_modifications {p : ProgramImage} {m : Nat × Nat} (h : m ∈ p.modifications) :
    (∃ q ∈ p.image.entries, m.1 = q.1 + 1) ∧ (m.2 = 3 ∨ m.2 = 5) := by
  obtain ⟨q, hq, hm⟩ := List.mem_flatMap.mp h
  split at hm
  next =>
    obtain ⟨k, hk, rfl⟩ := Option.map_eq_some_iff.mp (Option.mem_toList.mp hm)
    exact ⟨⟨q, hq, rfl⟩, modificationLength_eq hk⟩
  next => cases hm

theorem records_writable {p : ProgramImage} (hname : '\n' ∉ p.name)
    (hfits : ∀ q ∈ p.image.entries, q.1 + q.2.length ≤ Config.memSize)
    (hruns : ∀ r ∈ p.image.entries.runs, Loadable r) : ∀ r ∈ p.records, r.Writable := by
  have htexts : ∀ r ∈ p.image.entries.runs, (Record.text r.1 r.2).Writable := by
    intro r hr
    obtain ⟨hin, hshort, -⟩ := hruns r hr
    unfold Config.memSize at hin
    exact ⟨by omega, hshort⟩
  have hmodifications : ∀ m ∈ p.modifications, (Record.modification m.1 m.2).Writable := by
    intro m hm
    obtain ⟨⟨q, hq, haddr⟩, hk⟩ := mem_modifications hm
    have hin := hfits q hq
    have hpos := q.2.length_pos
    unfold Config.memSize at hin
    exact ⟨by omega, hk⟩
  simp only [ProgramImage.records, List.forall_mem_cons, List.forall_mem_append, List.forall_mem_map]
  exact ⟨nameField_writable hname, ⟨htexts, hmodifications⟩, trivial, by simp⟩

/-! ## The reader on these records (R226 to R233) -/

theorem payload_loadable {q : Nat × Entry} (hfits : q.1 + q.2.length ≤ Config.memSize)
    (hvalid : entryValid q.2 = true) : Loadable (q.1, q.2.bytes) where
  fits := by simpa using hfits
  short := by
    have hlen := q.2.length_le
    simp only [Entry.bytes_length]
    omega
  whole := whole_bytes hvalid

theorem runs_loadable {es : Entries} (h : ∀ r ∈ es.payloads, Loadable r) : ∀ r ∈ es.runs, Loadable r := by
  cases es with
  | nil => simp [Entries.runs]
  | cons q es =>
    obtain ⟨hq, hes⟩ := List.forall_mem_cons.mp h
    exact textRuns_loadable hq hes

theorem loadTexts_runs {s : State} {es : Entries} (hs : s.loader.left = []) (h : ∀ r ∈ es.payloads, Loadable r) :
    loadTexts s es.runs = loadTexts s es.payloads := by
  cases es with
  | nil => rfl
  | cons q es =>
    obtain ⟨hq, hes⟩ := List.forall_mem_cons.mp h
    exact loadTexts_textRuns hs hq.whole fun r hr => (hes r hr).whole

/-- The reader takes the writer's records and is left with the entries' bytes loaded and the entry address. -/
theorem reads_records {p : ProgramImage} {s : State} (hruns : ∀ r ∈ p.image.entries.runs, Loadable r) :
    Reads (Reader.start s) p.records
      ⟨{ loadTexts s.resetMachine p.image.entries.runs with loader := .none }, false, true, some p.image.entry⟩ := by
  have hopen : Reads ⟨s.resetMachine, true, true, none⟩ _ _ := reads_texts rfl rfl hruns
  refine .cons (fun line => rfl) ((hopen.append (reads_modifications rfl p.modifications)).append ?_)
  exact .cons (fun line => rfl) (.nil _)

/-- Settles O56: the emitted records are accepted, and they load the entries one by one. -/
theorem writtenObjectReadsBack : Obligations.WrittenObjectReadsBack := by
  intro p s hwf hvalid hdisjoint hfits hname
  have hvalid' := (Entries.valid_iff _).mp hvalid
  have hpayloads : ∀ r ∈ p.image.entries.payloads, Loadable r :=
    List.forall_mem_map.mpr fun q hq => payload_loadable (hfits q hq) (hvalid' q hq)
  have hruns := runs_loadable hpayloads
  have hload := (reads_records (s := s) hruns).loadObject (records_writable hname hfits hruns) rfl rfl
  rw [← emitObject_eq hwf hfits] at hload
  refine ⟨_, hload, ?entries, rfl, rfl, ?bytes⟩
  case entries =>
    have hentries := loadTexts_payloads_entries (s := s.resetMachine) rfl hvalid'
    rw [← loadTexts_runs rfl hpayloads] at hentries
    exact hentries.trans (Entries.insertAll_nil hwf)
  case bytes =>
    have hbytes := loadTexts_payloads_getBytes (s := s.resetMachine) rfl hwf hdisjoint hfits
    rw [← loadTexts_runs rfl hpayloads] at hbytes
    exact hbytes

end Sys2Proof.Machine
end

section
/-! Proofs about exceptions (spec/60_exceptions.md). Every check of an instruction stands before its writes (D32), so an
instruction either goes through or ends in one report of the state in which PC is advanced; the device port alone can
have been called before, by the RD or WD whose call was answered with Error (R191, R192). -/

namespace Sys2Proof.Machine

/-! ## An instruction completes or reports (R240, R243, D32) -/

/-- The report of an error after what may come before it: the note of the resolved address and a call of the port. -/
def State.reportAfter (s : State) (addr : Option Word) (port : DevicePort) (e : StepError) : State :=
  { s with trace := { s.trace with addr := addr }, dev := port }.report e

/-- From `s`, in which PC is advanced, an instruction ends in `t` without an error of its own, or it reports one from `s`
itself, the port called for a DeviceError alone. -/
inductive CompletesOrReports (s t : State) : Prop
  | completed (error : t.trace.error = s.trace.error)
  | reported (addr : Option Word) (port : DevicePort) (e : StepError)
      (called : port = s.dev ∨ ∃ d, e = .deviceError d) (report : t = s.reportAfter addr port e)

section
variable {s t u : State}

theorem completesOrReports_of_next (h : (Host.Outcome.next u : Out) = .next t)
    (hu : u.trace.error = s.trace.error) : CompletesOrReports s t :=
  next_inj h ▸ .completed hu

theorem report_completesOrReports (s : State) (e : StepError) : CompletesOrReports s (s.report e) :=
  .reported s.trace.addr s.dev e (.inl rfl) rfl

/-- A check that fails reports from the state it stands in, so only the value's continuation has to be followed. -/
theorem attempt_completesOrReports {α : Type} {r : Except StepError α} {k : α → Out} (h : s.attempt r k = .next t)
    (hk : ∀ v, k v = .next t → CompletesOrReports s t) : CompletesOrReports s t := by
  rcases State.attempt_cases h with ⟨v, -, hkv⟩ | ⟨e, -, rfl⟩
  · exact hk v hkv
  · exact report_completesOrReports s e

theorem combineRegs_completesOrReports {f : Word → Word → Except StepError Word} {r1 r2 : BitVec 4}
    (h : combineRegs f r1 r2 s = .next t) : CompletesOrReports s t :=
  attempt_completesOrReports h fun _ hk => attempt_completesOrReports hk fun _ hk =>
    attempt_completesOrReports hk fun _ hk => completesOrReports_of_next hk rfl

theorem branchIf_error {taken : Bool} {addr : Word} (h : branchIf taken addr s = .next t) :
    t.trace.error = s.trace.error := by
  obtain rfl := next_inj h
  cases taken <;> rfl

theorem noop_completesOrReports (h : noop s = .next t) : CompletesOrReports s t := completesOrReports_of_next h rfl

/-- RD calls the port once, before the only error that can follow (R191). -/
theorem opRd_completesOrReports {abs : AbsMode} {addr : Word} (h : opRd abs addr s = .next t) :
    CompletesOrReports s t := by
  rcases opRd_cases h with ⟨v, b, -, -, rfl⟩ | ⟨v, -, -, rfl⟩ | ⟨e, -, rfl⟩
  · exact .completed rfl
  · exact .reported s.trace.addr (s.callRead (lowByte v)).dev _ (.inr ⟨_, rfl⟩) rfl
  · exact report_completesOrReports s e

/-- WD calls the port once, before the only error that can follow (R192). -/
theorem opWd_completesOrReports {abs : AbsMode} {addr : Word} (h : opWd abs addr s = .next t) :
    CompletesOrReports s t := by
  rcases opWd_cases h with ⟨v, -, -, rfl⟩ | ⟨v, -, -, rfl⟩ | ⟨e, -, rfl⟩
  · exact .completed rfl
  · exact .reported s.trace.addr (s.callWrite (lowByte v) (lowByte s.regs.A)).dev _ (.inr ⟨_, rfl⟩) rfl
  · exact report_completesOrReports s e

/-- The F3/4 operations by what can be refused: a load or compare is refused its operand; a store its target or the
write; arithmetic its operand or the quotient; a jump or a no-op nothing. -/
theorem op34Effect_completesOrReports {a0 : Word} {op : Op34} {abs : AbsMode} {addr : Word}
    (h : op34Effect a0 op abs addr s = .next t) : CompletesOrReports s t := by
  cases op with
  | lda | ldx | ldl | ldb | lds | ldt | ldch | comp | tix | td =>
    exact attempt_completesOrReports h fun _ hk => completesOrReports_of_next hk rfl
  | sta | stx | stl | stb | sts | stt | stsw | stch | add | sub | mul | div | and | or =>
    exact attempt_completesOrReports h fun _ hk => attempt_completesOrReports hk fun _ hk =>
      completesOrReports_of_next hk rfl
  | j => exact completesOrReports_of_next h rfl
  | jeq | jgt | jlt | rsub => exact .completed (branchIf_error h)
  | jsub => exact .completed (branchIf_error (s := s.setReg .L s.regs.PC) h)
  | rd => exact opRd_completesOrReports h
  | wd => exact opWd_completesOrReports h
  | addf | subf | mulf | divf | compf | ldf | stf | lps | sti | ssk => exact noop_completesOrReports h

/-- The format-2 operations check their register ids, and DIVR its divisor, before they write (R134 to R141). -/
theorem op2Effect_completesOrReports {op : Op2} {r1 r2 : BitVec 4} (h : op2Effect r1 r2 op s = .next t) :
    CompletesOrReports s t := by
  cases op with
  | addr | subr | mulr | divr | rmo =>
    unfold op2Effect at h
    exact combineRegs_completesOrReports h
  | compr =>
    exact attempt_completesOrReports h fun _ hk => attempt_completesOrReports hk fun _ hk =>
      completesOrReports_of_next hk rfl
  | clear | tixr => exact attempt_completesOrReports h fun _ hk => completesOrReports_of_next hk rfl
  | shiftl | shiftr | svc => exact noop_completesOrReports h

/-- In a format with an address b = p = 1 reports, and the effect starts where only the address is noted (R91, R105). -/
theorem runMem_op34_completesOrReports {len : Nat} {m : Mode} {a0 : Word} {op : Op34}
    (h : runMem len m (op34Effect a0 op) s = .next t) : CompletesOrReports (s.advance len) t := by
  rcases runMem_cases h with ⟨-, rfl⟩ | ⟨addr, -, hk⟩
  · exact report_completesOrReports _ _
  · cases op34Effect_completesOrReports hk with
    | completed error => exact .completed error
    | reported addr port e called report => exact .reported addr port e called report

/-- Every instruction completes, or reports from the state in which its length was added to PC and nothing else was
written (R243, D17). -/
theorem exec_completesOrReports {i : Instr} (h : exec i s = .next t) : CompletesOrReports (s.advance i.length) t := by
  rcases instr_cases i with ⟨op, rfl⟩ | ⟨op, r1, r2, rfl⟩ | ⟨op, m, rfl⟩ | ⟨op, m, rfl⟩ | ⟨op, m, rfl⟩
  · rw [exec_f1] at h
    simpa [Instr.length, Shape.format, Format.length] using noop_completesOrReports h
  · rw [exec_f2] at h
    simpa [Instr.length, Shape.format, Format.length] using op2Effect_completesOrReports h
  · rw [exec_sic] at h
    simpa [Instr.length, Shape.format, Format.length] using runMem_op34_completesOrReports h
  · rw [exec_f3] at h
    simpa [Instr.length, Shape.format, Format.length] using runMem_op34_completesOrReports h
  · rw [exec_f4] at h
    simpa [Instr.length, Shape.format, Format.length] using runMem_op34_completesOrReports h

/-- An error after an instruction is one it reported: the advance of PC leaves none in the trace (R105). -/
theorem exec_error {i : Instr} {e : StepError} (h : exec i s = .next t) (he : t.trace.error = some e) :
    ∃ addr port, (port = s.dev ∨ ∃ d, e = .deviceError d) ∧ t = (s.advance i.length).reportAfter addr port e := by
  cases exec_completesOrReports h with
  | completed error => cases error.symm.trans he
  | reported addr port e' called report =>
    subst report
    obtain rfl : e' = e := Option.some.inj he
    exact ⟨addr, port, called, rfl⟩

end

/-! ## The Step that reports (R243) -/

/-- Settles O39: the fetch writes the image at most, by a resync; an instruction that reports has advanced PC and, for a
DeviceError, called the port. -/
theorem failedStepWritesOnlyPC : Obligations.FailedStepWritesOnlyPC := by
  intro s t e h he
  rcases step_cases h with ⟨i, u, hf, hx⟩ | ⟨e', u, hf, rfl⟩
  · obtain ⟨hregs, hmem, hloader, hdev, hcontrol, hentry, -, himage⟩ := fetch_got hf
    obtain ⟨addr, port, hport, rfl⟩ := exec_error hx he
    refine ⟨hmem, hloader, ?control, .inr ⟨i, hentry, ?regs⟩, ?image, hdev ▸ hport⟩
    case control => exact congrArg (fun c : Control => { c with status := .idle }) hcontrol
    case regs => exact congrArg (fun r : Regs => { r with PC := r.PC + BitVec.ofNat 24 i.length }) hregs
    case image => exact himage.imp (fun hsame => hsame.1) fun hnew => hnew.2.1
  · obtain ⟨hregs, hmem, hloader, hdev, hcontrol, -, himage⟩ := fetch_failed hf
    refine ⟨hmem, hloader, ?control, .inl hregs, ?image, .inl hdev⟩
    case control => exact congrArg (fun c : Control => { c with status := .idle }) hcontrol
    case image => exact himage.imp id fun hnew => hnew.2.1

end Sys2Proof.Machine
end

section
/-! Proofs about reset (spec/70_reset_and_hazards.md). Nothing is listed in memory or in the image, so every address
reads as an unlisted one, and the zero SW is the LT sentinel; the rest of the state is read off its definition. -/

namespace Sys2Proof.Machine

/-! ## Every piece of state after reset (R36, R260) -/

/-- All 1,048,576 bytes are zero because none is listed (R260). -/
theorem reset_mem_get (a : Nat) : State.reset.mem.get a = 0x00 := Memory.get_nil a

/-- Nothing is decoded yet, so the first fetch misses wherever PC stands (R260, R261). -/
theorem reset_image_lookup (a : Nat) : State.reset.image.entries.lookup a = none := Entries.lookup_nil a

/-- The LT sentinel is 0, so the condition code before the first compare is LT (R268). -/
theorem reset_cc : State.reset.cc = .lt := by decide

/-- The command leaves nothing of the state it is given but the device port (R110; log entry 2). -/
theorem perform_reset (s : State) : perform .reset s = ({ State.reset with dev := s.dev }, .done) := rfl

/-- Settles O51: memory and image are empty and SW is zero; the registers, the entry, the control bits and the
loader are written out in the definition, and the command gives that state too. -/
theorem resetValues : Obligations.ResetValues := by
  have hcommand (s : State) : (perform .reset s).1 = { State.reset with dev := s.dev } :=
    congrArg Prod.fst (perform_reset s)
  exact ⟨rfl, reset_mem_get, reset_image_lookup, rfl, rfl, rfl, rfl, reset_cc, hcommand⟩

end Sys2Proof.Machine
end

section
/-! Proofs about the stream decoder (spec/30_encoding.md R65 to R67). One turn keeps an unfinished instruction, makes a
byte of no table an Unknown/data entry, or emits an instruction; each fact about a stream is the induction over its
turns. -/

namespace Sys2Proof

open Sys2Proof.Machine Sys2Proof.Claims

/-! ## Bytes that are in no table (R65) -/

theorem Op34.mem_all (op : Op34) : op ∈ Op34.all := by cases op <;> decide

/-- A byte that does not classify was looked up in all three tables (R61). -/
theorem ofByte?_of_illegal {b : Byte} (h : illegalFirstByte b = true) :
    Op1.ofByte? b = none ∧ Op2.ofByte? b = none ∧ Op34.ofByte? b = none := by
  have hclass : classify b 0 = none := (illegalFirstByte_iff b 0).mp h
  unfold classify at hclass
  split at hclass
  next => cases hclass
  next h1 =>
    split at hclass
    next => cases hclass
    next h2 =>
      split at hclass
      next h34 => exact ⟨h1, h2, h34⟩
      next =>
        split at hclass
        next => cases hclass
        next => split at hclass <;> cases hclass

theorem startsNothing_of_illegal {b : Byte} (h : illegalFirstByte b = true) : StartsNothing b := by
  obtain ⟨h1, h2, h34⟩ := ofByte?_of_illegal h
  refine ⟨fun op hb => ?f1, fun op hb => ?f2, fun op hb => ?f34⟩
  case f1 => cases h1.symm.trans (hb ▸ Op1.ofByte?_code op)
  case f2 => cases h2.symm.trans (hb ▸ Op2.ofByte?_code op)
  case f34 => exact List.find?_eq_none.mp h34 op op.mem_all (beq_iff_eq.mpr hb.symm)

/-! ## What a stream is taken apart into (R67) -/

@[simp] theorem Entry.bytes_ins (i : Instr) : (Entry.ins i).bytes = encode i := rfl

@[simp] theorem Entry.bytes_unknown (b : Byte) : (Entry.unknown b).bytes = [b] := rfl

/-- No byte is lost and none is invented. -/
theorem decodeStream_flatMap_bytes (buf : List Byte) (a : Nat) :
    (decodeStream buf a).1.flatMap (fun p => p.2.bytes) ++ (decodeStream buf a).2 = buf := by
  induction buf using decodeStream_induction generalizing a with
  | incomplete buf h => simp [decodeStream_incomplete h]
  | unknown b bs h ih => simp [decodeStream_unknown h, ih]
  | ins buf i rest h ih =>
    obtain ⟨-, hbytes⟩ := encode_of_decode h
    simp [decodeStream_ins h, ih, hbytes]

/-- Every turn goes on behind the entry it emitted. -/
theorem decodeStream_consecutive (buf : List Byte) (a : Nat) : Consecutive a (decodeStream buf a).1 := by
  induction buf using decodeStream_induction generalizing a with
  | incomplete buf h => simp [decodeStream_incomplete h, Consecutive]
  | unknown b bs h ih =>
    rw [decodeStream_unknown h]
    exact ⟨rfl, ih (a + 1)⟩
  | ins buf i rest h ih =>
    rw [decodeStream_ins h]
    exact ⟨rfl, ih (a + i.length)⟩

theorem decodeStream_valid (buf : List Byte) (a : Nat) : ∀ p ∈ (decodeStream buf a).1, entryValid p.2 = true := by
  induction buf using decodeStream_induction generalizing a with
  | incomplete buf h => simp [decodeStream_incomplete h]
  | unknown b bs h ih =>
    rw [decodeStream_unknown h]
    exact List.forall_mem_cons.mpr ⟨h, ih (a + 1)⟩
  | ins buf i rest h ih =>
    obtain ⟨hwf, -⟩ := encode_of_decode h
    rw [decodeStream_ins h]
    exact List.forall_mem_cons.mpr ⟨hwf, ih (a + i.length)⟩

/-- The stream ends where a decode finds an instruction unfinished, if only an empty one. -/
theorem decode_leftover (buf : List Byte) (a : Nat) : decode (decodeStream buf a).2 = .error .incomplete := by
  induction buf using decodeStream_induction generalizing a with
  | incomplete buf h => simpa [decodeStream_incomplete h] using h
  | unknown b bs h ih => simpa [decodeStream_unknown h] using ih (a + 1)
  | ins buf i rest h ih => simpa [decodeStream_ins h] using ih (a + i.length)

/-- Settles O3: the four facts about a stream; what a valid entry is says its kind. -/
theorem streamDecoderTilesTheBuffer : Obligations.StreamDecoderTilesTheBuffer := by
  intro buf a
  refine ⟨decodeStream_flatMap_bytes buf a, decodeStream_consecutive buf a, fun p hp => ?_,
    decode_incomplete_length (decode_leftover buf a), .inr (decode_leftover buf a)⟩
  have hvalid := decodeStream_valid buf a p hp
  split
  next hb => exact startsNothing_of_illegal (by simpa [entryValid, hb] using hvalid)
  next hi => simpa [entryValid, hi] using hvalid

/-! ## Sample words (95_test_vectors.md B2, B3) -/

theorem decode_of_encode_eq {i : Instr} {bytes : List Byte} (hi : i.wellFormed = true) (h : encode i = bytes) :
    decode bytes = .ok (i, []) :=
  h ▸ decode_encode hi

/-- Settles O2: seven of the words are what their instructions are encoded to, and 0x8C is in no table. -/
theorem sampleWordsDecode : Obligations.SampleWordsDecode :=
  ⟨decode_of_encode_eq rfl rfl, decode_of_encode_eq rfl rfl, decode_of_encode_eq rfl rfl,
    decode_of_encode_eq rfl (by decide), decode_of_encode_eq rfl rfl, decode_of_encode_eq rfl rfl,
    decode_of_encode_eq rfl rfl, decode_of_illegal (by decide) [0, 0]⟩

end Sys2Proof
end

section
/-! Proofs about InvalidBP (spec/41_address_resolver.md R91, D14). The error is raised where the address is resolved and
nowhere else: what an effect can report is said by the reads, writes and quotients it is made of. -/

namespace Sys2Proof.Machine

open Sys2Proof.Claims

/-! ## Where b = p = 1 is not reported (R91 to R94) -/

theorem operand_ne_invalidBP (m : Memory) (abs : AbsMode) (addr : Word) :
    operand m abs addr ≠ .error .invalidBP := by
  intro h
  obtain ⟨a, he⟩ := operand_error_only h
  cases he

theorem targetStore_ne_invalidBP (m : Memory) (abs : AbsMode) (addr : Word) :
    targetStore m abs addr ≠ .error .invalidBP := by
  intro h
  rcases targetStore_error_only h with ⟨-, he⟩ | ⟨-, he⟩ <;> cases he

theorem byteOperand_ne_invalidBP (m : Memory) (abs : AbsMode) (addr : Word) :
    byteOperand m abs addr ≠ .error .invalidBP := by
  intro h
  cases abs with
  | sic | direct => cases memReadByte_error_only h
  | immediate => cases h
  | indirect =>
    cases hp : memReadWord m addr.toNat with
    | ok p => cases memReadByte_error_only ((byteOperand_indirect_of_pointer hp).symm.trans h)
    | error e =>
      cases (byteOperand_indirect_of_error hp).symm.trans h
      cases memReadWord_error_only hp

theorem memWriteBytes_ne_invalidBP (m : Memory) (a : Nat) (bytes : List Byte) :
    memWriteBytes m a bytes ≠ .error .invalidBP := by
  unfold memWriteBytes
  split <;> simp

theorem div24_ne_invalidBP (a v : Word) : div24 a v ≠ .error .invalidBP := by
  unfold div24
  split <;> simp

/-- From `s`, an instruction ends in `t` without having reported InvalidBP. -/
def KeepsInvalidBP (s t : State) : Prop := t.trace.error = some .invalidBP → s.trace.error = some .invalidBP

section
variable {s t : State}

theorem keepsInvalidBP_of_next {u : State} (h : (Host.Outcome.next u : Out) = .next t)
    (hu : u.trace.error = s.trace.error) : KeepsInvalidBP s t :=
  next_inj h ▸ fun hbp => hu.symm.trans hbp

theorem report_keepsInvalidBP {e : StepError} (h : e ≠ .invalidBP) (u : State) : KeepsInvalidBP s (u.report e) :=
  fun hbp => absurd (Option.some.inj hbp) h

theorem attempt_keepsInvalidBP {α : Type} {r : Except StepError α} {k : α → Out} (h : s.attempt r k = .next t)
    (hr : r ≠ .error .invalidBP) (hk : ∀ v, k v = .next t → KeepsInvalidBP s t) : KeepsInvalidBP s t := by
  rcases State.attempt_cases h with ⟨v, -, hkv⟩ | ⟨e, he, rfl⟩
  · exact hk v hkv
  · exact report_keepsInvalidBP (fun hbp => hr (hbp ▸ he)) s

theorem accumulate_keepsInvalidBP {f : Word → Word → Except StepError Word} {abs : AbsMode} {addr : Word}
    (hf : ∀ a v, f a v ≠ .error .invalidBP) (h : accumulate f abs addr s = .next t) : KeepsInvalidBP s t :=
  attempt_keepsInvalidBP h (operand_ne_invalidBP _ _ _) fun _ hk =>
    attempt_keepsInvalidBP hk (hf _ _) fun _ hk => keepsInvalidBP_of_next hk rfl

theorem opRd_keepsInvalidBP {abs : AbsMode} {addr : Word} (h : opRd abs addr s = .next t) : KeepsInvalidBP s t := by
  rcases opRd_cases h with ⟨v, b, -, -, rfl⟩ | ⟨v, -, -, rfl⟩ | ⟨e, he, rfl⟩
  · exact id
  · exact report_keepsInvalidBP (by simp) _
  · exact report_keepsInvalidBP (fun hbp => operand_ne_invalidBP _ _ _ (hbp ▸ he)) s

theorem opWd_keepsInvalidBP {abs : AbsMode} {addr : Word} (h : opWd abs addr s = .next t) : KeepsInvalidBP s t := by
  rcases opWd_cases h with ⟨v, -, -, rfl⟩ | ⟨v, -, -, rfl⟩ | ⟨e, he, rfl⟩
  · exact id
  · exact report_keepsInvalidBP (by simp) _
  · exact report_keepsInvalidBP (fun hbp => operand_ne_invalidBP _ _ _ (hbp ▸ he)) s

/-- No F3/4 operation reports InvalidBP, its address resolved: each of its checks is one of the reads, writes and
quotients above. -/
theorem op34Effect_keepsInvalidBP {a0 : Word} {op : Op34} {abs : AbsMode} {addr : Word}
    (h : op34Effect a0 op abs addr s = .next t) : KeepsInvalidBP s t := by
  cases op with
  | lda | ldx | ldl | ldb | lds | ldt | comp | tix | td =>
    exact attempt_keepsInvalidBP h (operand_ne_invalidBP _ _ _) fun _ hk => keepsInvalidBP_of_next hk rfl
  | ldch =>
    exact attempt_keepsInvalidBP h (byteOperand_ne_invalidBP _ _ _) fun _ hk => keepsInvalidBP_of_next hk rfl
  | sta | stx | stl | stb | sts | stt | stsw | stch =>
    exact attempt_keepsInvalidBP h (targetStore_ne_invalidBP _ _ _) fun _ hk =>
      attempt_keepsInvalidBP hk (memWriteBytes_ne_invalidBP _ _ _) fun _ hk => keepsInvalidBP_of_next hk rfl
  | add | sub | mul | and | or =>
    unfold op34Effect at h
    exact accumulate_keepsInvalidBP (fun _ _ => by simp) h
  | div => exact accumulate_keepsInvalidBP div24_ne_invalidBP h
  | j => exact keepsInvalidBP_of_next h rfl
  | jeq | jgt | jlt | rsub => exact fun hbp => (branchIf_error h).symm.trans hbp
  | jsub => exact fun hbp => (branchIf_error (s := s.setReg .L s.regs.PC) h).symm.trans hbp
  | rd => exact opRd_keepsInvalidBP h
  | wd => exact opWd_keepsInvalidBP h
  | addf | subf | mulf | divf | compf | ldf | stf | lps | sti | ssk => exact keepsInvalidBP_of_next h rfl

/-- SIC format has no bits b and p, so its address always resolves (R58, R92). -/
theorem exec_sic_error_ne_invalidBP {op : Op34} {o : SicOperand} (h : exec (op.sicInstr o) s = .next t) :
    t.trace.error ≠ some .invalidBP := by
  rw [exec_sic] at h
  rcases runMem_cases h with ⟨hinvalid, -⟩ | ⟨addr, -, hk⟩
  · cases hinvalid
  · intro hbp
    cases op34Effect_keepsInvalidBP hk hbp

end

/-- Settles O14: the address is resolved before any effect, and no effect reports b = p = 1; the decoder reads these
bits like any others. -/
theorem invalidModeBitsRaiseInEveryOpcode : Obligations.InvalidModeBitsRaiseInEveryOpcode := by
  refine ⟨fun op o s hinvalid => ?f3, fun op o s hinvalid => ?f4, fun op o s t h => exec_sic_error_ne_invalidBP h,
    fun op o a hwf _ => ?decodeF3, fun op o a hwf _ => ?decodeF4⟩
  case f3 =>
    obtain ⟨-, hf3, -⟩ := Forms.ofOp34_invalidBPErrors op
    exact hf3 o s hinvalid
  case f4 =>
    obtain ⟨-, -, hf4⟩ := Forms.ofOp34_invalidBPErrors op
    exact hf4 o s hinvalid
  case decodeF3 =>
    have hvalid : (op.f3Instr o).wellFormed = true := by simpa [Instr.wellFormed_eq_shape, Shape.wellFormed] using hwf
    exact decodeStream_bytes (e := .ins (op.f3Instr o)) hvalid a
  case decodeF4 =>
    have hvalid : (op.f4Instr o).wellFormed = true := by simpa [Instr.wellFormed_eq_shape, Shape.wellFormed] using hwf
    exact decodeStream_bytes (e := .ins (op.f4Instr o)) hvalid a

end Sys2Proof.Machine
end

section
/-! Proofs about the end of a Step and of a Run (spec/42_interpreter_cycle.md R105, R111). Every operation answers a
next state, because a check that fails answers its report; so every Step has a successor, and a turn of a Run takes
it. -/

namespace Sys2Proof.Machine

/-! ## Every Step has a successor (R240, R244) -/

/-- The meaning answers a next state: neither a fault nor a refusal. -/
def Answers (o : Out) : Prop := ∃ t, o = .next t

theorem answers_next (t : State) : Answers (.next t) := ⟨t, rfl⟩

theorem attempt_answers {α : Type} {s : State} {r : Except StepError α} {k : α → Out} (hk : ∀ v, Answers (k v)) :
    Answers (s.attempt r k) := by
  cases r with
  | ok v => exact hk v
  | error e => exact answers_next _

theorem combineRegs_answers (f : Word → Word → Except StepError Word) (r1 r2 : BitVec 4) (s : State) :
    Answers (combineRegs f r1 r2 s) :=
  attempt_answers fun _ => attempt_answers fun _ => attempt_answers fun _ => answers_next _

theorem opRd_answers (abs : AbsMode) (addr : Word) (s : State) : Answers (opRd abs addr s) :=
  attempt_answers fun v => by cases s.dev.readAnswer (lowByte v) <;> exact answers_next _

theorem opWd_answers (abs : AbsMode) (addr : Word) (s : State) : Answers (opWd abs addr s) :=
  attempt_answers fun v => by split <;> exact answers_next _

theorem op34Effect_answers (a0 : Word) (op : Op34) (abs : AbsMode) (addr : Word) (s : State) :
    Answers (op34Effect a0 op abs addr s) := by
  cases op with
  | lda | ldx | ldl | ldb | lds | ldt | ldch | comp | tix | td => exact attempt_answers fun _ => answers_next _
  | sta | stx | stl | stb | sts | stt | stsw | stch | add | sub | mul | div | and | or =>
    exact attempt_answers fun _ => attempt_answers fun _ => answers_next _
  | rd => exact opRd_answers abs addr s
  | wd => exact opWd_answers abs addr s
  | j | jeq | jgt | jlt | jsub | rsub | addf | subf | mulf | divf | compf | ldf | stf | lps | sti | ssk =>
    exact answers_next _

theorem op2Effect_answers (op : Op2) (r1 r2 : BitVec 4) (s : State) : Answers (op2Effect r1 r2 op s) := by
  cases op with
  | addr | subr | mulr | divr | rmo =>
    unfold op2Effect
    exact combineRegs_answers _ r1 r2 s
  | compr => exact attempt_answers fun _ => attempt_answers fun _ => answers_next _
  | clear | tixr => exact attempt_answers fun _ => answers_next _
  | shiftl | shiftr | svc => exact answers_next _

theorem runMem_op34_answers (len : Nat) (m : Mode) (a0 : Word) (op : Op34) (s : State) :
    Answers (runMem len m (op34Effect a0 op) s) :=
  attempt_answers fun _ => op34Effect_answers a0 op _ _ _

theorem exec_answers (i : Instr) (s : State) : Answers (exec i s) := by
  rcases instr_cases i with ⟨op, rfl⟩ | ⟨op, r1, r2, rfl⟩ | ⟨op, m, rfl⟩ | ⟨op, m, rfl⟩ | ⟨op, m, rfl⟩
  · exact exec_f1 op s ▸ answers_next _
  · exact exec_f2 op r1 r2 s ▸ op2Effect_answers op r1 r2 _
  · exact exec_sic op m s ▸ runMem_op34_answers _ _ _ _ _
  · exact exec_f3 op m s ▸ runMem_op34_answers _ _ _ _ _
  · exact exec_f4 op m s ▸ runMem_op34_answers _ _ _ _ _

theorem step_answers (s : State) : Answers (step s) := by
  unfold step
  cases fetch s with
  | got i u => exact exec_answers i u
  | failed e u => exact answers_next _

/-- A Step ends Idle or Halted (R31, R105). -/
theorem step_status {s t : State} (h : step s = .next t) : t.control.status = .idle ∨ t.control.status = .halted := by
  rcases step_cases h with ⟨i, u, -, he⟩ | ⟨e, u, -, rfl⟩
  · exact (exec_finishes he).status
  · exact .inl rfl

/-- Settles O38: every instruction and every Step answers a next state, and the frame of an instruction says its
status. -/
theorem everyStepHasASuccessor : Obligations.EveryStepHasASuccessor := by
  refine ⟨fun i s => ?instruction, fun s => ?step⟩
  case instruction =>
    obtain ⟨t, h⟩ := exec_answers i s
    exact ⟨t, h, (exec_finishes h).status⟩
  case step =>
    obtain ⟨t, h⟩ := step_answers s
    exact ⟨t, h, step_status h⟩

/-! ## One turn of a Run (R111, D18) -/

/-- A Step writes the status alone of the control bits (R105). -/
theorem step_control {s t : State} (h : step s = .next t) :
    t.control = { s.control with status := t.control.status } := by
  rcases step_cases h with ⟨i, u, hf, he⟩ | ⟨e, u, hf, rfl⟩
  · obtain ⟨-, -, -, -, hcontrol, -⟩ := fetch_got hf
    rw [(exec_finishes he).control, State.advance_control, hcontrol]
  · obtain ⟨-, -, -, -, hcontrol, -⟩ := fetch_failed hf
    rw [State.report_control, hcontrol]

theorem afterStep_of_step {s t : State} (h : step s = .next t) : s.afterStep = t := by simp only [State.afterStep, h]

theorem runEnds_iff (t : State) : t.runEnds = true ↔ t.trace.error ≠ none ∨ t.control.status = .halted := by
  simp [State.runEnds, Option.isSome_iff_ne_none]

theorem runTurn_of_stop {s : State} (hrun : s.control.running = true) (hstop : s.control.stopRequested = true) :
    s.runTurn = s.endRun := by
  simp [State.runTurn, hrun, hstop]

/-- Without a stop request a turn is a Step, behind which the Run ends or goes on. -/
theorem runTurn_of_step {s t : State} (hrun : s.control.running = true) (hstop : s.control.stopRequested = false)
    (h : step s = .next t) : s.runTurn = if t.runEnds then t.endRun else t := by
  simp [State.runTurn, hrun, hstop, afterStep_of_step h]

/-- Settles O59: the request is looked at first; the Step has a successor, whose trace and status end the Run. -/
theorem runEndsForThreeReasons : Obligations.RunEndsForThreeReasons := by
  refine fun s hrun => ⟨runTurn_of_stop hrun, fun hstop => ?_⟩
  obtain ⟨t, h⟩ := step_answers s
  have hturn := runTurn_of_step hrun hstop h
  refine ⟨t, h, fun hends => ?ends, fun herror hstatus => ?goesOn⟩
  case ends => exact hturn.trans (if_pos ((runEnds_iff t).mpr hends))
  case goesOn =>
    have hgoes : ¬ t.runEnds = true := fun hends => ((runEnds_iff t).mp hends).elim (· herror) hstatus
    have hsame : s.runTurn = t := hturn.trans (if_neg hgoes)
    have hrunning : t.control.running = true := by rw [step_control h, hrun]
    exact ⟨hsame, hsame ▸ hrunning⟩

end Sys2Proof.Machine
end

section
/-! Proofs about what an instruction does with its operand (spec/41_address_resolver.md Part A). The three formats of an
F3/4 operation run one effect from the resolved address; where that effect begins with the operand or with the store
target, an error of it is reported and the value is handed to the rest. -/

namespace Sys2Proof.Machine

open Sys2Proof.Claims

/-! ## A register that is read where PC is advanced -/

theorem get_eq_of_sameRegister {r : Reg} {a b : Regs} (h : SameRegister r a b) : a.get r = b.get r := by
  cases r with
  | F => exact congrArg (BitVec.extractLsb' 24 24) h
  | A | X | L | B | S | T | PC | SW => exact h

theorem Regs.get_set_of_ne {r n : Reg} (h : r ≠ n) (a : Regs) (v : Word) : (a.set n v).get r = a.get r :=
  get_eq_of_sameRegister (sameRegister_set h a v)

theorem advanced_get {r : Reg} (h : r ≠ .PC) (s : State) (len : Nat) : (advanced s len).get r = s.regs.get r :=
  Regs.get_set_of_ne h s.regs _

end Sys2Proof.Machine

namespace Sys2Proof.Claims

open Sys2Proof.Machine

/-! ## From the resolved address (42_interpreter_cycle.md R105) -/

/-- The state in which an effect runs: PC is advanced, and the resolved address is in the trace (R105, R114). -/
abbrev resolved (s : State) (len : Nat) (addr : Word) : State := (s.advance len).noteAddr addr

/-- Where the address resolves, an operation is its effect. -/
theorem Forms.ofOp34_runs (op : Op34) : (Forms.ofOp34 op).Each fun i len m => ∀ s addr, Resolves m len s addr →
    exec i s = op34Effect s.regs.PC op m.abs addr (resolved s len addr) :=
  (Forms.ofOp34_exec op).imp fun _ _ _ hexec s _ hr => (hexec s).trans (runMem_ok hr)

theorem Forms.Each.and {f : Forms} {P Q : Instr → Nat → Mode → Prop} (hP : f.Each P) (hQ : f.Each Q) :
    f.Each fun i len m => P i len m ∧ Q i len m := by
  obtain ⟨hsic, hf3, hf4⟩ := hP
  obtain ⟨hsic', hf3', hf4'⟩ := hQ
  exact ⟨fun o => ⟨hsic o, hsic' o⟩, fun o => ⟨hf3 o, hf3' o⟩, fun o => ⟨hf4 o, hf4' o⟩⟩

theorem raises_of_report {i : Instr} {len : Nat} {s : State} {addr : Word} {e : StepError}
    (h : exec i s = .next ((resolved s len addr).report e)) : Raises i len s (some addr) e := h

theorem completes_of_setReg {i : Instr} {len : Nat} {s : State} {addr : Word} {r : Reg} {v : Word}
    (h : exec i s = .next ((resolved s len addr).setReg r v).retire) :
    Completes i s ((advanced s len).set r v) s.mem (some addr) false := h

theorem completes_of_setMem {i : Instr} {len : Nat} {s : State} {addr : Word} {m : Memory}
    (h : exec i s = .next ((resolved s len addr).setMem m).retire) :
    Completes i s (advanced s len) m (some addr) false := h

/-! ## Operations that begin with a read (R93, R94) -/

/-- The operation begins by forming its operand, its byte operand or its store target with `read`, and goes on with the
value in `k`. -/
def Takes {α : Type} (op : Op34) (read : Memory → AbsMode → Word → Except StepError α) (k : State → α → Out) : Prop :=
  ∀ a0 abs addr s, op34Effect a0 op abs addr s = s.attempt (read s.mem abs addr) (k s)

section
variable {α : Type} {op : Op34} {read : Memory → AbsMode → Word → Except StepError α} {k : State → α → Out}

/-- With `operand` this is `OperandErrors`, with `targetStore` it is `TargetErrors`. -/
theorem Takes.errors (h : Takes op read k) : (Forms.ofOp34 op).Each fun i len m => ∀ s addr e,
    Resolves m len s addr → read s.mem m.abs addr = .error e → Raises i len s (some addr) e :=
  (Forms.ofOp34_runs op).imp fun i len m hrun s addr e hr he => raises_of_report <| by
    rw [hrun s addr hr, h, State.noteAddr_mem, State.advance_mem, he, State.attempt_error]

theorem Takes.runs (h : Takes op read k) : (Forms.ofOp34 op).Each fun i len m => ∀ s addr v,
    Resolves m len s addr → read s.mem m.abs addr = .ok v → exec i s = k (resolved s len addr) v :=
  (Forms.ofOp34_runs op).imp fun _ _ _ hrun s addr v hr hv => by
    rw [hrun s addr hr, h, State.noteAddr_mem, State.advance_mem, hv, State.attempt_ok]

end

end Sys2Proof.Claims
end

section
/-! Proofs about loads and stores (spec/44_load_store.md). A word load is the write of its register behind the operand,
a word store the write of three bytes behind the target; the byte forms move one byte. -/

namespace Sys2Proof.Claims

open Sys2Proof.Machine

/-! ## Loads (R146 to R152) -/

/-- The word loads with their registers (R146 to R151). -/
def wordLoads : List (Op34 × Reg) := [(.lda, .A), (.ldx, .X), (.ldl, .L), (.ldb, .B), (.lds, .S), (.ldt, .T)]

theorem takes_of_wordLoad {p : Op34 × Reg} (hp : p ∈ wordLoads) :
    Takes p.1 operand fun s v => .next (s.setReg p.2 v).retire := by
  simp only [wordLoads, List.mem_cons, List.not_mem_nil, or_false] at hp
  rcases hp with rfl | rfl | rfl | rfl | rfl | rfl <;> exact fun _ _ _ _ => rfl

/-- Settles O15: the six mnemonics are the formats of the six word loads, each of which writes its register behind the
operand. -/
theorem wordLoadsTakeTheOperand : Obligations.WordLoadsTakeTheOperand := by
  change ∀ p ∈ wordLoads.map fun q => (Forms.ofOp34 q.1, q.1.code, fun (r : Regs) v => r.set q.2 v), _
  refine List.forall_mem_map.2 fun q hq => ⟨?opcode, ?invalid, ?errors, ?completes⟩
  case opcode => exact Forms.ofOp34_hasOpcode q.1
  case invalid => exact Forms.ofOp34_invalidBPErrors q.1
  case errors => exact (takes_of_wordLoad hq).errors
  case completes =>
    exact (takes_of_wordLoad hq).runs.imp fun _ _ _ hrun s addr v hr hv => completes_of_setReg (hrun s addr v hr hv)

theorem takes_ldch : Takes .ldch byteOperand fun s b => .next (s.setReg .A (withLowByte s.regs.A b)).retire :=
  fun _ _ _ _ => rfl

/-- Settles O16: LDCH replaces the low byte of A behind its byte operand. -/
theorem byteLoadKeepsUpperBits : Obligations.ByteLoadKeepsUpperBits := by
  refine ⟨Forms.ofOp34_hasOpcode .ldch, Forms.ofOp34_invalidBPErrors .ldch, ?_⟩
  refine (takes_ldch.runs.and takes_ldch.errors).imp ?_
  rintro i len m ⟨hrun, herror⟩ s addr hr
  exact ⟨fun b hb => completes_of_setReg (hrun s addr b hr hb), fun e he => herror s addr e hr he⟩

/-! ## Stores (R153 to R160) -/

/-- What a word store does behind its target (R145, R42). -/
def writeWordAt (r : Reg) (s : State) (t : Word) : Out :=
  s.attempt (memWriteWord s.mem t.toNat (s.regs.get r)) fun m => .next (s.setMem m).retire

/-- A word store writes its register's three bytes at the target or reports that they are not all there (R42, D7). -/
theorem Takes.storesWord {op : Op34} {r : Reg} (h : Takes op targetStore (writeWordAt r)) (hpc : r ≠ .PC) :
    (Forms.ofOp34 op).Each fun i len m => ∀ s addr t, Resolves m len s addr → targetStore s.mem m.abs addr = .ok t →
      (t.toNat + 3 > Config.memSize → Raises i len s (some addr) (.addressError t.toNat 3))
      ∧ (s.mem.wf = true → t.toNat + 3 ≤ Config.memSize → ∃ mem, Completes i s (advanced s len) mem (some addr) false
          ∧ mem.wf = true
          ∧ mem.get t.toNat = (s.regs.get r).extractLsb' 16 8
          ∧ mem.get (t.toNat + 1) = (s.regs.get r).extractLsb' 8 8
          ∧ mem.get (t.toNat + 2) = (s.regs.get r).extractLsb' 0 8
          ∧ ∀ a, a < t.toNat ∨ t.toNat + 3 ≤ a → mem.get a = s.mem.get a) := by
  refine h.runs.imp fun i len m hrun s addr t hr ht => ?_
  have hvalue : (resolved s len addr).regs.get r = s.regs.get r := advanced_get hpc s len
  have hwrites : exec i s = (resolved s len addr).attempt (memWriteWord s.mem t.toNat (s.regs.get r)) fun m =>
      .next ((resolved s len addr).setMem m).retire := by
    rw [hrun s addr t hr ht, writeWordAt, hvalue, State.noteAddr_mem, State.advance_mem]
  refine ⟨fun habove => ?raises, fun hwf hfits => ?completes⟩
  case raises =>
    have hrefused : memWriteWord s.mem t.toNat (s.regs.get r) = .error (.addressError t.toNat 3) :=
      memWriteBytes_error (Nat.not_le.mpr habove)
    exact raises_of_report (by rw [hwrites, hrefused, State.attempt_error])
  case completes =>
    have hwritten : memWriteWord s.mem t.toNat (s.regs.get r)
        = .ok (s.mem.setBytes t.toNat (wordBytes (s.regs.get r))) := memWriteBytes_ok hfits
    obtain ⟨-, hbytes⟩ := memWriteWord_spec hwf hwritten
    exact ⟨_, completes_of_setMem (by rw [hwrites, hwritten, State.attempt_ok]), hbytes⟩

/-- The word stores with their registers (R153 to R158). -/
def wordStores : List (Op34 × Reg) := [(.sta, .A), (.stx, .X), (.stl, .L), (.stb, .B), (.sts, .S), (.stt, .T)]

theorem takes_of_wordStore {p : Op34 × Reg} (hp : p ∈ wordStores) :
    Takes p.1 targetStore (writeWordAt p.2) ∧ p.2 ≠ .PC := by
  simp only [wordStores, List.mem_cons, List.not_mem_nil, or_false] at hp
  rcases hp with rfl | rfl | rfl | rfl | rfl | rfl <;> exact ⟨fun _ _ _ _ => rfl, by decide⟩

/-- Settles O17: the six mnemonics are the formats of the six word stores. -/
theorem wordStoresWriteThreeBytes : Obligations.WordStoresWriteThreeBytes := by
  change ∀ p ∈ wordStores.map fun q => (Forms.ofOp34 q.1, q.1.code, fun (r : Regs) => r.get q.2), _
  refine List.forall_mem_map.2 fun q hq => ?_
  obtain ⟨htakes, hpc⟩ := takes_of_wordStore hq
  exact ⟨Forms.ofOp34_hasOpcode q.1, Forms.ofOp34_invalidBPErrors q.1, htakes.errors, htakes.storesWord hpc⟩

theorem takes_stsw : Takes .stsw targetStore (writeWordAt .SW) := fun _ _ _ _ => rfl

/-- Settles O18: STSW is a word store, its register SW. -/
theorem statusWordStore : Obligations.StatusWordStore := by
  refine List.forall_mem_singleton.mpr ⟨?opcode, ?invalid, ?errors, ?stores⟩
  case opcode => exact Forms.ofOp34_hasOpcode .stsw
  case invalid => exact Forms.ofOp34_invalidBPErrors .stsw
  case errors => exact takes_stsw.errors
  case stores => exact takes_stsw.storesWord (by decide)

theorem takes_stch : Takes .stch targetStore fun s t =>
    s.attempt (memWriteByte s.mem t.toNat (lowByte s.regs.A)) fun m => .next (s.setMem m).retire :=
  fun _ _ _ _ => rfl

/-- Settles O19: STCH writes one byte behind the target, which exists up to 0xFFFFF. -/
theorem byteStoreWritesOneByte : Obligations.ByteStoreWritesOneByte := by
  refine ⟨Forms.ofOp34_hasOpcode .stch, Forms.ofOp34_invalidBPErrors .stch, takes_stch.errors, ?_⟩
  refine takes_stch.runs.imp fun i len m hrun s addr t hr ht => ?_
  have hwrites : exec i s = (resolved s len addr).attempt (memWriteByte s.mem t.toNat (lowByte s.regs.A)) fun m =>
      .next ((resolved s len addr).setMem m).retire := hrun s addr t hr ht
  refine ⟨fun habove => ?raises, fun hwf hfits => ?completes⟩
  case raises =>
    have hrefused : memWriteByte s.mem t.toNat (lowByte s.regs.A) = .error (.addressError t.toNat 1) :=
      memWriteBytes_error (Nat.not_le.mpr (Nat.succ_lt_succ habove))
    exact raises_of_report (by rw [hwrites, hrefused, State.attempt_error])
  case completes =>
    have hwritten : memWriteByte s.mem t.toNat (lowByte s.regs.A) = .ok (s.mem.setBytes t.toNat [lowByte s.regs.A]) :=
      memWriteBytes_ok (Nat.succ_le_succ hfits)
    obtain ⟨-, hbyte⟩ := memWriteByte_spec hwf hwritten
    exact ⟨_, completes_of_setMem (by rw [hwrites, hwritten, State.attempt_ok]), hbyte⟩

end Sys2Proof.Claims
end

section
/-! Proofs about arithmetic, logic and compare (spec/43_arith_logic_compare.md). With a memory operand the result goes to
A, X or SW; by register ids both ids are looked up first, and the result goes to the second. -/

namespace Sys2Proof.Claims

open Sys2Proof.Machine

/-! ## The sentinels (40_alu_word24.md R82, 10_state.md R26) -/

/-- The sentinel of a comparison, by how the unsigned readings lie. -/
theorem compareSentinel_eq (a b : Word) :
    compareSentinel a b = if a.toNat < b.toNat then 0x000000 else if a = b then 0x400000 else 0x800000 := by
  unfold compareSentinel cmp24
  split
  · rfl
  · split <;> rfl

theorem compareSentinel_self (a : Word) : compareSentinel a a = 0x400000 := by simp [compareSentinel_eq]

/-! ## Arithmetic and logic in A (R126 to R131) -/

/-- The operations that combine A with their operand without an error (R126 to R128, R130, R131). -/
def accumulatorOps : List (Op34 × (Word → Word → Word)) :=
  [(.add, add24), (.sub, sub24), (.mul, mul24), (.and, and24), (.or, or24)]

theorem takes_of_accumulatorOp {p : Op34 × (Word → Word → Word)} (hp : p ∈ accumulatorOps) :
    Takes p.1 operand fun s v => .next (s.setReg .A (p.2 s.regs.A v)).retire := by
  simp only [accumulatorOps, List.mem_cons, List.not_mem_nil, or_false] at hp
  rcases hp with rfl | rfl | rfl | rfl | rfl <;> exact fun _ _ _ _ => rfl

/-- Settles O20: the five mnemonics are the formats of the five operations, each of which writes A behind the
operand. -/
theorem accumulatorArithmetic : Obligations.AccumulatorArithmetic := by
  change ∀ p ∈ accumulatorOps.map fun q => (Forms.ofOp34 q.1, q.1.code, q.2), _
  refine List.forall_mem_map.2 fun q hq => ⟨?opcode, ?invalid, ?errors, ?completes⟩
  case opcode => exact Forms.ofOp34_hasOpcode q.1
  case invalid => exact Forms.ofOp34_invalidBPErrors q.1
  case errors => exact (takes_of_accumulatorOp hq).errors
  case completes =>
    exact (takes_of_accumulatorOp hq).runs.imp fun _ _ _ hrun s addr v hr hv =>
      completes_of_setReg (hrun s addr v hr hv)

theorem takes_div : Takes .div operand fun s v =>
    s.attempt (div24 s.regs.A v) fun w => .next (s.setReg .A w).retire :=
  fun _ _ _ _ => rfl

/-- Settles O21: DIV divides behind the operand, and a zero divisor is the one case that is reported. -/
theorem divideAndItsError : Obligations.DivideAndItsError := by
  refine ⟨Forms.ofOp34_hasOpcode .div, Forms.ofOp34_invalidBPErrors .div, takes_div.errors, ?_⟩
  refine takes_div.runs.imp fun i len m hrun s addr v hr hv => ⟨fun hzero => ?raises, fun hne => ?completes⟩
  case raises => exact raises_of_report (by rw [hrun s addr v hr hv, hzero, div24_zero, State.attempt_error])
  case completes =>
    exact completes_of_setReg (r := .A) (by rw [hrun s addr v hr hv, div24_of_ne_zero hne, State.attempt_ok]; rfl)

/-! ## Compare and index with an operand (R132, R133) -/

theorem takes_comp : Takes .comp operand fun s v => .next (s.setCompare s.regs.A v).retire := fun _ _ _ _ => rfl

/-- Settles O22: COMP writes the sentinel of A and the operand. -/
theorem compareSetsStatusWord : Obligations.CompareSetsStatusWord := by
  refine ⟨Forms.ofOp34_hasOpcode .comp, Forms.ofOp34_invalidBPErrors .comp, takes_comp.errors, ?_⟩
  refine takes_comp.runs.imp fun i len m hrun s addr v hr hv => ?_
  rw [← compareSentinel_eq]
  exact completes_of_setReg (r := .SW) (hrun s addr v hr hv)

theorem takes_tix : Takes .tix operand fun s v =>
    .next ((s.setReg .X (s.regs.X + 1)).setCompare (s.regs.X + 1) v).retire :=
  fun _ _ _ _ => rfl

/-- Settles O23: the old X has given the address and the operand where TIX writes the new one and compares it. -/
theorem tixIncrementsThenCompares : Obligations.TixIncrementsThenCompares := by
  refine ⟨Forms.ofOp34_hasOpcode .tix, Forms.ofOp34_invalidBPErrors .tix, takes_tix.errors, ?_⟩
  refine takes_tix.runs.imp fun i len m hrun s addr v hr hv => ?_
  rw [← compareSentinel_eq]
  exact hrun s addr v hr hv

/-! ## By register ids (R134 to R141) -/

theorem encode_f2 (op : Op2) (r1 r2 : BitVec 4) : encode (op.instr r1 r2) = [op.code, r1 ++ r2] := by
  simp [encode, Shape.bytes]

section
variable {op : Op2} {r1 r2 : BitVec 4} {s : State}

theorem raises_of_report_f2 {e : StepError} (h : op2Effect r1 r2 op (s.advance 2) = .next ((s.advance 2).report e)) :
    Raises (op.instr r1 r2) 2 s none e := (exec_f2 op r1 r2 s).trans h

theorem completes_of_setReg_f2 {r : Reg} {v : Word}
    (h : op2Effect r1 r2 op (s.advance 2) = .next ((s.advance 2).setReg r v).retire) :
    Completes (op.instr r1 r2) s ((advanced s 2).set r v) s.mem none false := (exec_f2 op r1 r2 s).trans h

end

section
variable {f : Word → Word → Except StepError Word} {r1 r2 : BitVec 4} {s : State}

theorem combineRegs_undefined_source (h : Reg.ofId? r1 = none) :
    combineRegs f r1 r2 s = .next (s.report (.invalidRegister r1)) := by
  rw [combineRegs, lookupReg_none h, State.attempt_error]

theorem combineRegs_undefined_dest {a : Reg} (ha : Reg.ofId? r1 = some a) (h : Reg.ofId? r2 = none) :
    combineRegs f r1 r2 s = .next (s.report (.invalidRegister r2)) := by
  rw [combineRegs, lookupReg_ok ha, State.attempt_ok, lookupReg_none h, State.attempt_error]

theorem combineRegs_defined {a b : Reg} (ha : Reg.ofId? r1 = some a) (hb : Reg.ofId? r2 = some b) :
    combineRegs f r1 r2 s =
      s.attempt (f (s.regs.get b) (s.regs.get a)) fun w => .next (s.setReg b w).retire := by
  rw [combineRegs, lookupReg_ok ha, State.attempt_ok, lookupReg_ok hb, State.attempt_ok]

end

/-- The format-2 operation combines the registers of its ids into the second one. -/
def Combines (op : Op2) (f : Word → Word → Except StepError Word) : Prop :=
  ∀ r1 r2 s, op2Effect r1 r2 op s = combineRegs f r1 r2 s

section
variable {op : Op2} {f : Word → Word → Except StepError Word} {r1 r2 : BitVec 4}

theorem Combines.raises_source (h : Combines op f) (h1 : Reg.ofId? r1 = none) (s : State) :
    Raises (op.instr r1 r2) 2 s none (.invalidRegister r1) :=
  raises_of_report_f2 (by rw [h, combineRegs_undefined_source h1])

theorem Combines.raises_dest (h : Combines op f) (h1 : Reg.ofId? r1 ≠ none) (h2 : Reg.ofId? r2 = none) (s : State) :
    Raises (op.instr r1 r2) 2 s none (.invalidRegister r2) := by
  obtain ⟨a, ha⟩ := Option.ne_none_iff_exists'.mp h1
  exact raises_of_report_f2 (by rw [h, combineRegs_undefined_dest ha h2])

theorem Combines.completes (h : Combines op f) {a b : Reg} (ha : Reg.ofId? r1 = some a) (hb : Reg.ofId? r2 = some b)
    {s : State} {w : Word} (hw : f ((advanced s 2).get b) ((advanced s 2).get a) = .ok w) :
    Completes (op.instr r1 r2) s ((advanced s 2).set b w) s.mem none false :=
  completes_of_setReg_f2 (by rw [h, combineRegs_defined ha hb]; exact congrArg (State.attempt _ · _) hw)

theorem Combines.raises (h : Combines op f) {a b : Reg} (ha : Reg.ofId? r1 = some a) (hb : Reg.ofId? r2 = some b)
    {s : State} {e : StepError} (he : f ((advanced s 2).get b) ((advanced s 2).get a) = .error e) :
    Raises (op.instr r1 r2) 2 s none e :=
  raises_of_report_f2 (by rw [h, combineRegs_defined ha hb]; exact congrArg (State.attempt _ · _) he)

end

/-- The register operations that combine without an error of their own (R134 to R136). -/
def registerOps : List (Op2 × (Word → Word → Word)) := [(.addr, add24), (.subr, sub24), (.mulr, mul24)]

theorem combines_of_registerOp {p : Op2 × (Word → Word → Word)} (hp : p ∈ registerOps) :
    Combines p.1 fun a v => .ok (p.2 a v) := by
  simp only [registerOps, List.mem_cons, List.not_mem_nil, or_false] at hp
  rcases hp with rfl | rfl | rfl <;> exact fun _ _ _ => rfl

/-- Settles O24: the ids are looked up in order, and the result goes to the second. -/
theorem registerArithmetic : Obligations.RegisterArithmetic := by
  change ∀ p ∈ registerOps.map fun q => ((fun r1 r2 => q.1.instr r1 r2), q.1.code, q.2), _
  refine List.forall_mem_map.2 fun q hq r1 r2 s => ?_
  have hcombines := combines_of_registerOp hq
  exact ⟨encode_f2 q.1 r1 r2, fun h1 => hcombines.raises_source h1 s, fun h1 h2 => hcombines.raises_dest h1 h2 s,
    fun a b ha hb => hcombines.completes ha hb rfl⟩

theorem combines_divr : Combines .divr div24 := fun _ _ _ => rfl

/-- Settles O25: as the other register operations, with the quotient that can be refused. -/
theorem registerDivide : Obligations.RegisterDivide := by
  intro r1 r2 s
  refine ⟨encode_f2 .divr r1 r2, fun h1 => combines_divr.raises_source h1 s,
    fun h1 h2 => combines_divr.raises_dest h1 h2 s, fun a b ha hb => ⟨fun hzero => ?raises, fun hne => ?completes⟩⟩
  case raises => exact combines_divr.raises ha hb (by rw [hzero, div24_zero])
  case completes => exact combines_divr.completes ha hb (div24_of_ne_zero hne _)

theorem combines_rmo : Combines .rmo fun _ v => .ok v := fun _ _ _ => rfl

theorem op2Effect_compr {r1 r2 : BitVec 4} (s : State) : op2Effect r1 r2 .compr s =
    s.attempt (lookupReg r1) fun a => s.attempt (lookupReg r2) fun b =>
      .next (s.setCompare (s.regs.get a) (s.regs.get b)).retire := rfl

theorem op2Effect_clear {r1 r2 : BitVec 4} (s : State) : op2Effect r1 r2 .clear s =
    s.attempt (lookupReg r1) fun r => .next (s.setReg r 0).retire := rfl

theorem op2Effect_tixr {r1 r2 : BitVec 4} (s : State) : op2Effect r1 r2 .tixr s =
    s.attempt (lookupReg r1) fun r =>
      .next ((s.setReg .X (s.regs.X + 1)).setCompare (s.regs.X + 1)
        ((s.regs.set .X (s.regs.X + 1)).get r)).retire := rfl

/-- Settles O26: RMO combines by taking the first register; COMPR looks up both ids, CLEAR the first alone. -/
theorem registerCompareAndMove : Obligations.RegisterCompareAndMove := by
  intro r1 r2 s
  refine ⟨⟨encode_f2 .compr r1 r2, encode_f2 .clear r1 r2, encode_f2 .rmo r1 r2⟩, fun h1 => ?undefinedFirst,
    fun a ha => ⟨?clear, fun h2 => ?undefinedSecond, fun b hb => ⟨combines_rmo.completes ha hb rfl, ?compr⟩⟩⟩
  case undefinedFirst =>
    exact ⟨raises_of_report_f2 (op := .compr) (by rw [op2Effect_compr, lookupReg_none h1, State.attempt_error]),
      raises_of_report_f2 (op := .clear) (by rw [op2Effect_clear, lookupReg_none h1, State.attempt_error]),
      combines_rmo.raises_source h1 s⟩
  case clear =>
    exact completes_of_setReg_f2 (op := .clear) (by rw [op2Effect_clear, lookupReg_ok ha, State.attempt_ok])
  case undefinedSecond =>
    have hcompr : Raises (.compr r1 r2) 2 s none (.invalidRegister r2) := raises_of_report_f2 (op := .compr)
      (by rw [op2Effect_compr, lookupReg_ok ha, State.attempt_ok, lookupReg_none h2, State.attempt_error])
    exact ⟨hcompr, combines_rmo.raises_dest (by simp [ha]) h2 s⟩
  case compr =>
    rw [← compareSentinel_eq]
    exact completes_of_setReg_f2 (op := .compr) (r := .SW)
      (by rw [op2Effect_compr, lookupReg_ok ha, State.attempt_ok, lookupReg_ok hb, State.attempt_ok]; rfl)

/-- TIXR of a defined id writes X + 1 and compares it with the register as it is then (R139). -/
theorem tixr_completes {r1 r2 : BitVec 4} {r : Reg} (hr : Reg.ofId? r1 = some r) (s : State) :
    Completes (.tixr r1 r2) s
      { advanced s 2 with
        X := s.regs.X + 1
        SW := compareSentinel (s.regs.X + 1) (((advanced s 2).set .X (s.regs.X + 1)).get r) } s.mem none false := by
  have hrun : op2Effect r1 r2 .tixr (s.advance 2) = .next (((s.advance 2).setReg .X (s.regs.X + 1)).setCompare
      (s.regs.X + 1) (((advanced s 2).set .X (s.regs.X + 1)).get r)).retire := by
    rw [op2Effect_tixr, lookupReg_ok hr]
    rfl
  exact (exec_f2 .tixr r1 r2 s).trans hrun

/-- Settles O27: the register read after the increment is the new X for X itself, and for every other what it was. -/
theorem tixrComparesAfterIncrement : Obligations.TixrComparesAfterIncrement := by
  intro r1 r2 s
  refine ⟨encode_f2 .tixr r1 r2, fun h1 => ?raises, fun hx => ?withX, fun r hr hne => ?other⟩
  case raises =>
    exact raises_of_report_f2 (op := .tixr) (by rw [op2Effect_tixr, lookupReg_none h1, State.attempt_error])
  case withX =>
    have hid : Reg.ofId? r1 = some .X := by rw [hx]; rfl
    have hdone := tixr_completes (r2 := r2) hid s
    rwa [Regs.get_set, compareSentinel_self] at hdone
  case other =>
    have hdone := tixr_completes (r2 := r2) hr s
    rwa [Regs.get_set_of_ne hne, compareSentinel_eq] at hdone

end Sys2Proof.Claims
end

section
/-! Proofs about jumps (spec/45_jumps.md). No jump reads memory, so from the resolved address each is the write of PC,
and for J the halt test behind it. -/

namespace Sys2Proof.Claims

open Sys2Proof.Machine

/-! ## The jump that can halt (R166, R109) -/

theorem op34Effect_j (a0 : Word) (abs : AbsMode) (addr : Word) (s : State) : op34Effect a0 .j abs addr s =
    .next ((s.setReg .PC addr).endStep (if addr = a0 then .halted else .idle)) := rfl

/-- Settles O28: J writes the address to the PC that was advanced, and its status is the halt test. -/
theorem jumpAndHalt : Obligations.JumpAndHalt := by
  refine ⟨Forms.ofOp34_hasOpcode .j, Forms.ofOp34_invalidBPErrors .j, ?_⟩
  exact (Forms.ofOp34_runs .j).imp fun _ _ m hrun s addr hr =>
    (hrun s addr hr).trans (op34Effect_j s.regs.PC m.abs addr _)

/-! ## Conditional jumps (R167 to R169) -/

/-- Each condition code but NONE is one value of the bits 23 and 22 of SW (10_state.md R26, D10). -/
theorem ccOfWord_beq (sw : Word) :
    (ccOfWord sw == .eq) = decide (sw.extractLsb' 22 2 = 0b01)
      ∧ (ccOfWord sw == .gt) = decide (sw.extractLsb' 22 2 = 0b10)
      ∧ (ccOfWord sw == .lt) = decide (sw.extractLsb' 22 2 = 0b00) := by
  unfold ccOfWord
  generalize sw.extractLsb' 22 2 = bits
  revert bits
  decide

/-- The conditional jumps with the bits of SW on which they are taken (R167 to R169). -/
def conditionalOps : List (Op34 × BitVec 2) := [(.jeq, 0b01), (.jgt, 0b10), (.jlt, 0b00)]

theorem op34Effect_of_conditionalOp {p : Op34 × BitVec 2} (hp : p ∈ conditionalOps) (a0 : Word) (abs : AbsMode)
    (addr : Word) (s : State) :
    op34Effect a0 p.1 abs addr s = branchIf (decide (s.regs.SW.extractLsb' 22 2 = p.2)) addr s := by
  obtain ⟨heq, hgt, hlt⟩ := ccOfWord_beq s.regs.SW
  simp only [conditionalOps, List.mem_cons, List.not_mem_nil, or_false] at hp
  rcases hp with rfl | rfl | rfl
  · exact congrArg (branchIf · addr s) heq
  · exact congrArg (branchIf · addr s) hgt
  · exact congrArg (branchIf · addr s) hlt

/-- A jump taken overwrites the advanced PC, and one not taken leaves it (R165). -/
theorem completes_of_branchIf {i : Instr} {len : Nat} {s : State} {addr : Word} {c : Prop} [Decidable c]
    (h : exec i s = branchIf (decide c) addr (resolved s len addr)) :
    Completes i s (if c then { s.regs with PC := addr } else advanced s len) s.mem (some addr) false := by
  by_cases hc : c
  · rw [if_pos hc]
    rw [decide_eq_true hc] at h
    exact h
  · rw [if_neg hc]
    rw [decide_eq_false hc] at h
    exact h

/-- Settles O29: the three mnemonics are the formats of the three conditional jumps. -/
theorem conditionalJumps : Obligations.ConditionalJumps := by
  change ∀ p ∈ conditionalOps.map fun q => (Forms.ofOp34 q.1, q.1.code, q.2), _
  refine List.forall_mem_map.2 fun q hq => ⟨?opcode, ?invalid, ?completes⟩
  case opcode => exact Forms.ofOp34_hasOpcode q.1
  case invalid => exact Forms.ofOp34_invalidBPErrors q.1
  case completes =>
    exact (Forms.ofOp34_runs q.1).imp fun _ _ _ hrun s addr hr =>
      completes_of_branchIf ((hrun s addr hr).trans (op34Effect_of_conditionalOp hq _ _ _ _))

/-! ## Call and return (R170, R171) -/

theorem op34Effect_jsub (a0 : Word) (abs : AbsMode) (addr : Word) (s : State) :
    op34Effect a0 .jsub abs addr s = .next ((s.setReg .L s.regs.PC).setReg .PC addr).retire := rfl

theorem op34Effect_rsub (a0 : Word) (abs : AbsMode) (addr : Word) (s : State) :
    op34Effect a0 .rsub abs addr s = .next (s.setReg .PC s.regs.L).retire := rfl

/-- Settles O30: JSUB links the advanced PC before it writes the address, RSUB writes L. -/
theorem callAndReturn : Obligations.CallAndReturn := by
  refine ⟨Forms.ofOp34_hasOpcode .jsub, Forms.ofOp34_invalidBPErrors .jsub, Forms.ofOp34_hasOpcode .rsub,
    Forms.ofOp34_invalidBPErrors .rsub, ?jsub, ?rsub⟩
  case jsub =>
    exact (Forms.ofOp34_runs .jsub).imp fun _ _ m hrun s addr hr =>
      (hrun s addr hr).trans (op34Effect_jsub s.regs.PC m.abs addr _)
  case rsub =>
    exact (Forms.ofOp34_runs .rsub).imp fun _ _ m hrun s addr hr =>
      completes_of_setReg ((hrun s addr hr).trans (op34Effect_rsub s.regs.PC m.abs addr _))

end Sys2Proof.Claims
end

section
/-! Proofs about the device instructions (spec/46_device_io.md). RD and WD make one call behind their operand; nothing
else calls the port. -/

namespace Sys2Proof.Claims

open Sys2Proof.Machine

/-! ## What one call does (R191 to R193) -/

theorem callRead_of_answer {s : State} {d : Byte} {answer : Option Byte} (h : s.dev.readAnswer d = answer) :
    s.callRead d = { s with dev := { s.dev with
      readScript := s.dev.readScript.tail
      events := s.dev.events ++ [.read d answer] } } := h ▸ rfl

theorem callWrite_of_answer {s : State} {d b : Byte} {ok : Bool} (h : s.dev.writeAnswer d b = ok) :
    s.callWrite d b = { s with dev := { s.dev with
      writeScript := s.dev.writeScript.tail
      events := s.dev.events ++ [.write d b ok] } } := h ▸ rfl

/-- What RD does with the answer to its call (R191). -/
def afterRead (s : State) (d : Byte) : Option Byte → Out
  | some b => .next ((s.callRead d).setReg .A (withLowByte s.regs.A b)).retire
  | none => .next ((s.callRead d).report (.deviceError d))

/-- What WD does with the answer to its call (R192). -/
def afterWrite (s : State) (d b : Byte) (ok : Bool) : Out :=
  if ok then .next (s.callWrite d b).retire else .next ((s.callWrite d b).report (.deviceError d))

theorem takes_rd : Takes .rd operand fun s v => afterRead s (lowByte v) (s.dev.readAnswer (lowByte v)) :=
  fun _ _ _ _ => rfl

theorem takes_wd : Takes .wd operand fun s v =>
    afterWrite s (lowByte v) (lowByte s.regs.A) (s.dev.writeAnswer (lowByte v) (lowByte s.regs.A)) :=
  fun _ _ _ _ => rfl

/-- Settles O31: behind the operand the answer of the port says which of the two ends is reached. -/
theorem deviceReadTransfersOneByte : Obligations.DeviceReadTransfersOneByte := by
  refine ⟨Forms.ofOp34_hasOpcode .rd, Forms.ofOp34_invalidBPErrors .rd, takes_rd.errors, ?_⟩
  refine takes_rd.runs.imp fun i len m hrun s addr v hr hv => ?_
  have hanswer (answer : Option Byte) (h : s.dev.readAnswer (v.extractLsb' 0 8) = answer) :
      exec i s = afterRead (resolved s len addr) (lowByte v) answer := h ▸ hrun s addr v hr hv
  refine ⟨fun b hb => ?byte, fun hnone => ?error⟩
  case byte =>
    rw [hanswer _ hb, afterRead, callRead_of_answer (s := resolved s len addr) (d := lowByte v) hb]
    rfl
  case error =>
    rw [hanswer _ hnone, afterRead, callRead_of_answer (s := resolved s len addr) (d := lowByte v) hnone]
    rfl

/-- Settles O32: behind the operand the answer of the port says whether an error is reported. -/
theorem deviceWriteTransfersOneByte : Obligations.DeviceWriteTransfersOneByte := by
  refine ⟨Forms.ofOp34_hasOpcode .wd, Forms.ofOp34_invalidBPErrors .wd, takes_wd.errors, ?_⟩
  refine takes_wd.runs.imp fun i len m hrun s addr v ok hr hv hok => ?_
  have hanswer : exec i s = afterWrite (resolved s len addr) (lowByte v) (lowByte s.regs.A) ok :=
    hok ▸ hrun s addr v hr hv
  rw [hanswer, afterWrite, callWrite_of_answer (s := resolved s len addr) (d := lowByte v) (b := lowByte s.regs.A) hok]
  cases ok <;> rfl

theorem takes_td : Takes .td operand fun s _ => .next (s.setReg .SW lessSentinel).retire := fun _ _ _ _ => rfl

/-- Settles O33: TD writes the LT sentinel behind its operand. -/
theorem deviceTestIsAlwaysReady : Obligations.DeviceTestIsAlwaysReady := by
  refine ⟨Forms.ofOp34_hasOpcode .td, Forms.ofOp34_invalidBPErrors .td, takes_td.errors, ?_⟩
  exact takes_td.runs.imp fun _ _ _ hrun s addr v hr hv => completes_of_setReg (r := .SW) (hrun s addr v hr hv)

/-! ## Who calls the port (R190, D27) -/

/-- An instruction that is an operation in some format runs its effect behind the resolved address. -/
theorem exec_of_isOp34 {i : Instr} {op : Op34} (h : i.IsOp34 op) :
    ∃ len m, ∀ s, exec i s = runMem len m (op34Effect s.regs.PC op) s := by
  rw [← Instr.ofShape_shape i]
  obtain ⟨m, hm⟩ | ⟨m, hm⟩ | ⟨m, hm⟩ := h
  · exact ⟨3, m.mode, hm ▸ exec_sic op m⟩
  · exact ⟨3, m.mode, hm ▸ exec_f3 op m⟩
  · exact ⟨4, m.mode, hm ▸ exec_f4 op m⟩

/-- From `s` to `t` the port was called once, with an event of this kind; or it was not called, and an error that is no
DeviceError is in the trace. -/
def CallsOnce (kind : DevEvent → Prop) (s t : State) : Prop :=
  (∃ ev, kind ev ∧ t.dev.events = s.dev.events ++ [ev])
    ∨ t.dev = s.dev ∧ ∃ e, t.trace.error = some e ∧ ∀ d, e ≠ .deviceError d

section
variable {kind : DevEvent → Prop} {s t : State}

theorem callsOnce_report {e : StepError} (h : ∀ d, e ≠ .deviceError d) : CallsOnce kind s (s.report e) :=
  .inr ⟨rfl, e, rfl, h⟩

theorem callsOnce_operand_error {abs : AbsMode} {addr : Word} {e : StepError}
    (h : operand s.mem abs addr = .error e) : CallsOnce kind s (s.report e) := by
  obtain ⟨a, rfl⟩ := operand_error_only h
  exact callsOnce_report (by simp)

theorem opRd_callsOnce {abs : AbsMode} {addr : Word} (h : opRd abs addr s = .next t) :
    CallsOnce (fun ev => ∃ d a, ev = .read d a) s t := by
  rcases opRd_cases h with ⟨v, b, -, -, rfl⟩ | ⟨v, -, -, rfl⟩ | ⟨e, he, rfl⟩
  · exact .inl ⟨_, ⟨_, _, rfl⟩, rfl⟩
  · exact .inl ⟨_, ⟨_, _, rfl⟩, rfl⟩
  · exact callsOnce_operand_error he

theorem opWd_callsOnce {abs : AbsMode} {addr : Word} (h : opWd abs addr s = .next t) :
    CallsOnce (fun ev => ∃ d b a, ev = .write d b a) s t := by
  rcases opWd_cases h with ⟨v, -, -, rfl⟩ | ⟨v, -, -, rfl⟩ | ⟨e, he, rfl⟩
  · exact .inl ⟨_, ⟨_, _, _, rfl⟩, rfl⟩
  · exact .inl ⟨_, ⟨_, _, _, rfl⟩, rfl⟩
  · exact callsOnce_operand_error he

/-- The address is resolved without a call, and b = p = 1 is reported without one (R91, R105). -/
theorem exec_callsOnce {i : Instr} {op : Op34} (hi : i.IsOp34 op)
    (hop : ∀ {a0 abs addr u}, op34Effect a0 op abs addr u = .next t → CallsOnce kind u t) (h : exec i s = .next t) :
    CallsOnce kind s t := by
  obtain ⟨len, m, hexec⟩ := exec_of_isOp34 hi
  rcases runMem_cases ((hexec s).symm.trans h) with ⟨-, rfl⟩ | ⟨addr, -, hk⟩
  · exact .inr ⟨rfl, _, rfl, by simp⟩
  · have hcalls : CallsOnce kind (resolved s len addr) t := hop hk
    exact hcalls

theorem CallsOnce.unchanged_or (h : CallsOnce kind s t) :
    t.dev = s.dev ∨ ∃ ev, kind ev ∧ t.dev.events = s.dev.events ++ [ev] :=
  h.symm.imp_left And.left

/-- Where the Step completes or reports DeviceError, the call was made. -/
theorem CallsOnce.events_length (h : CallsOnce kind s t)
    (hend : t.trace.error = none ∨ ∃ d, t.trace.error = some (.deviceError d)) :
    t.dev.events.length = s.dev.events.length + 1 := by
  obtain ⟨ev, -, hevents⟩ | ⟨-, e, he, hne⟩ := h
  · simp [hevents]
  · obtain hnone | ⟨d, hd⟩ := hend
    · cases hnone.symm.trans he
    · exact absurd (Option.some.inj (he.symm.trans hd)) (hne d)

/-- The other instructions run as they do with their own port put in its place, so they leave it there. -/
theorem exec_dev {i : Instr} (hrd : ¬ i.IsOp34 .rd) (hwd : ¬ i.IsOp34 .wd) (h : exec i s = .next t) :
    t.dev = s.dev := by
  have hsame : exec i s = .next { t with dev := s.dev } :=
    devicesDoNotLeakIntoOtherInstructions i s t s.dev hrd hwd h
  have heq : t = { t with dev := s.dev } := next_inj (hsame.symm.trans h)
  rw [heq]

end

/-- Settles O49: RD and WD call once behind their operand, and what an instruction does that is neither of them does not
depend on the port. -/
theorem onlyRdAndWdCallDevices : Obligations.OnlyRdAndWdCallDevices := by
  intro i s t h
  have hread (hi : i.IsOp34 .rd) := exec_callsOnce hi opRd_callsOnce h
  have hwrite (hi : i.IsOp34 .wd) := exec_callsOnce hi opWd_callsOnce h
  refine ⟨fun hrd hwd => exec_dev hrd hwd h, fun hrd => ?read, fun hwd => ?write, ?count⟩
  case read =>
    refine (hread hrd).unchanged_or.imp_right ?_
    rintro ⟨_, ⟨d, a, rfl⟩, hevents⟩
    exact ⟨d, a, hevents⟩
  case write =>
    refine (hwrite hwd).unchanged_or.imp_right ?_
    rintro ⟨_, ⟨d, b, a, rfl⟩, hevents⟩
    exact ⟨d, b, a, hevents⟩
  case count =>
    rintro (hrd | hwd) hend
    · exact (hread hrd).events_length hend
    · exact (hwrite hwd).events_length hend

end Sys2Proof.Claims
end

section
/-! Proofs about the unimplemented instructions without an address (spec/47_unimplemented_noops.md sections 1 to 3).
Format 1 holds no other instruction, and in format 2 neither nibble is read (D16). -/

namespace Sys2Proof.Claims

open Sys2Proof.Machine

theorem encode_f1 (op : Op1) : encode op.instr = [op.code] := by simp [encode, Shape.bytes]

/-- A no-op behind the advance of PC leaves the notice and nothing else (R200, D34). -/
theorem completes_of_noop {i : Instr} {len : Nat} {s : State} (h : exec i s = noop (s.advance len)) :
    Completes i s (advanced s len) s.mem none true := h

/-- The format-2 operations that are declared and not implemented (R214, R218, R219). -/
def unimplementedOps2 : List Op2 := [.svc, .shiftl, .shiftr]

theorem op2Effect_of_unimplemented {op : Op2} (hop : op ∈ unimplementedOps2) (r1 r2 : BitVec 4) :
    op2Effect r1 r2 op = noop := by
  simp only [unimplementedOps2, List.mem_cons, List.not_mem_nil, or_false] at hop
  rcases hop with rfl | rfl | rfl <;> rfl

/-- Settles O35: the six mnemonics are all of format 1, and the three of format 2 have the same effect. -/
theorem unimplementedShortFormsDoNothing : Obligations.UnimplementedShortFormsDoNothing := by
  constructor
  · change ∀ p ∈ [Op1.fix, .float, .norm, .sio, .tio, .hio].map fun op => (op.instr, op.code), _
    exact List.forall_mem_map.2 fun op _ => ⟨encode_f1 op, fun s => completes_of_noop (exec_f1 op s)⟩
  · change ∀ p ∈ unimplementedOps2.map fun op => ((fun r1 r2 => op.instr r1 r2), op.code), _
    refine List.forall_mem_map.2 fun op hop r1 r2 => ⟨encode_f2 op r1 r2, fun s => completes_of_noop ?_⟩
    rw [exec_f2, op2Effect_of_unimplemented hop]

end Sys2Proof.Claims
end

section
/-! Proofs about the state a load commits (spec/48_object_format.md Parts B and D). Every record and every line of an
assembled program keeps the machine being built well-formed: its image canonical, its registers and control bits those
of reset, and a leftover that ends where the next record may start. -/

namespace Sys2Proof.Machine

open Sys2Proof.Claims

/-! ## The machine being built (R226) -/

/-- What every record and every line keeps of the machine that a load builds for `s`. -/
structure Building (s u : State) : Prop where
  regs : u.regs = Regs.zero
  control : u.control = ⟨.idle, false, false⟩
  dev : u.dev = s.dev
  mem : u.mem.wf = true
  image : u.image.Canonical

theorem resetMachine_building (s : State) : Building s s.resetMachine where
  regs := rfl
  control := rfl
  dev := rfl
  mem := rfl
  image := ⟨rfl, by simp [Image.empty]⟩

/-- Bytes and entries inside memory, and a last byte that is none or inside memory, keep the machine well-formed. -/
theorem Building.load {s u : State} (h : Building s u) {a : Nat} {bytes : List Byte} {es : List (Nat × Entry)}
    {last : Option Nat} {l : Loader} (hbytes : a + bytes.length ≤ Config.memSize)
    (hentries : ∀ p ∈ es, p.1 < Config.memSize) (hlast : ∀ k, last = some k → k < Config.memSize) :
    Building s { u with
      mem := u.mem.setBytes a bytes
      image := { u.image with entries := u.image.entries.insertAll es, lastByteAddr := last }
      loader := l } where
  regs := h.regs
  control := h.control
  dev := h.dev
  mem := Memory.wf_setBytes h.mem hbytes
  image := ⟨Entries.wf_insertAll h.image.1 hentries, hlast⟩

/-- The state committed at the end has the invariant, PC at the entry address (R233, D22). -/
theorem Building.commitLoad {s u : State} (h : Building s u) (e : Word) :
    (u.commitLoad e).regs = { Regs.zero with PC := e } ∧ (u.commitLoad e).image.entry = e
      ∧ (u.commitLoad e).control = ⟨.idle, false, false⟩ ∧ (u.commitLoad e).dev = s.dev ∧ Inv (u.commitLoad e) := by
  have hregs : (u.commitLoad e).regs = { Regs.zero with PC := e } :=
    congrArg (fun r : Regs => { r with PC := e }) h.regs
  have hcanonical : (u.commitLoad e).Canonical := ⟨h.mem, h.image, rfl⟩
  have hidle : (u.commitLoad e).control.status = .idle := congrArg Control.status h.control
  exact ⟨hregs, rfl, h.control, h.dev, (inv_iff _).mpr ⟨hcanonical, .inl hidle⟩⟩

/-! ## Loading the records of an object file (R227 to R232) -/

/-- The entries of a record that continues the loader stand in memory when its payload does (R228). -/
theorem decodeRecord_inside {l : Loader} {start : Nat} (hl : Continues l start) {p : List Byte}
    (hfits : start + p.length ≤ Config.memSize) : ∀ q ∈ (l.decodeRecord start p).1, q.1 < Config.memSize := by
  intro q hq
  have hbuffer := Loader.bufferAddr_add_left hl
  obtain ⟨-, hend⟩ := decodeStream_inside _ _ q hq
  have hpos := q.2.length_pos
  rw [List.length_append] at hend
  omega

theorem Building.loadText {s u : State} (h : Building s u) {start : Nat} (hl : Continues u.loader start) {p : List Byte}
    (hfits : start + p.length ≤ Config.memSize) : Building s (loadText u start p) := by
  rw [loadText_of_continues hl]
  refine h.load hfits (decodeRecord_inside hl hfits) fun k hk => ?_
  split at hk
  next => exact h.image.2 k hk
  next hne =>
    have hpos := List.length_pos_iff.mpr hne
    obtain rfl := Option.some.inj hk
    omega

/-- The reader between two records: the machine is well-formed, and a leftover ends where a record may continue it. -/
structure Reading (s : State) (rd : Reader) : Prop where
  core : Building s rd.core
  continues : ∀ start, rd.core.loader.left = [] ∨ rd.core.loader.expect = some start → Continues rd.core.loader start

theorem start_reading (s : State) : Reading s (Reader.start s) where
  core := resetMachine_building s
  continues _ _ := .inl rfl

theorem readRecord_reading {s : State} {line : Nat} {rd rd' : Reader} {r : Record} (h : Reading s rd)
    (hr : readRecord line rd r = .ok rd') : Reading s rd' := by
  obtain ⟨-, -, rfl⟩ | ⟨start, p, -, -, hfits, hcontinues, rfl⟩ | ⟨-, -, rfl⟩ | ⟨e, -, -, rfl⟩ := readRecord_cases hr
  case inl => exact ⟨h.core, h.continues⟩
  case inr.inl =>
    have hl := h.continues start hcontinues
    refine ⟨h.core.loadText hl hfits, fun next hnext => ?_⟩
    obtain hleft | hexpect := hnext
    · exact .inl hleft
    · obtain rfl : start + p.length = next := Option.some.inj hexpect
      exact loadText_continues hl p
  case inr.inr.inl => exact h
  case inr.inr.inr =>
    obtain ⟨hregs, hcontrol, hdev, hmem, himage⟩ := h.core
    exact ⟨⟨hregs, hcontrol, hdev, hmem, himage⟩, fun _ _ => .inl rfl⟩

theorem readLines_reading {s : State} {ls : List Text} {line : Nat} {rd rd' : Reader} (h : Reading s rd)
    (hr : readLines line rd ls = .ok rd') : Reading s rd' := by
  induction ls generalizing line rd with
  | nil =>
    obtain rfl := Except.ok.inj hr
    exact h
  | cons t rest ih =>
    unfold readLines at hr
    split at hr
    next => exact ih h hr
    next =>
      split at hr
      next => cases hr
      next r =>
        split at hr
        next hrecord => exact ih (readRecord_reading h hrecord) hr
        next => cases hr

/-! ## Loading the lines of an assembled program (R239) -/

theorem dataEntries_inside (a : Nat) (bytes : List Byte) : ∀ p ∈ dataEntries a bytes, p.1 < a + bytes.length := by
  induction bytes generalizing a with
  | nil => simp [dataEntries]
  | cons b bs ih =>
    refine List.forall_mem_cons.mpr ⟨by simp, fun p hp => ?_⟩
    have hin := ih (a + 1) p hp
    rw [List.length_cons]
    omega

/-- An item's entries stand where its bytes do. -/
theorem AsmItem.entries_inside (a : Nat) (item : AsmItem) : ∀ p ∈ item.entries a, p.1 < a + item.bytes.length := by
  cases item with
  | code i flag =>
    have hpos := i.length_pos
    simpa [AsmItem.entries, AsmItem.bytes] using hpos
  | data bytes => exact dataEntries_inside a bytes

theorem highestByte_inside {last : Option Nat} {a : Nat} {bytes : List Byte}
    (hlast : ∀ k, last = some k → k < Config.memSize) (hfits : a + bytes.length ≤ Config.memSize) :
    ∀ k, highestByte last a bytes = some k → k < Config.memSize := by
  intro k hk
  unfold highestByte at hk
  split at hk
  next => exact hlast k hk
  next hne =>
    have hpos := List.length_pos_iff.mpr hne
    obtain rfl := Option.some.inj hk
    refine max_lt ?_ (by omega)
    cases last with
    | none => decide
    | some k => exact hlast k rfl

theorem loadItems_building {s u t : State} {ls : List AsmLine} (h : Building s u) (hload : loadItems u ls = .ok t) :
    Building s t := by
  induction ls generalizing u with
  | nil =>
    obtain rfl := Except.ok.inj hload
    exact h
  | cons l rest ih =>
    obtain ⟨hfits, hrest⟩ := loadItems_cons hload
    have hentries : ∀ p ∈ l.item.entries l.addr, p.1 < Config.memSize := fun p hp =>
      (l.item.entries_inside l.addr p hp).trans_le hfits
    exact ih (h.load hfits hentries (highestByte_inside h.image.2 hfits)) hrest

/-! ## The committed state (R233) -/

/-- Settles O53: what every record and every line keeps is what the commit asks for. -/
theorem loadedStateIsWellFormed : Obligations.LoadedStateIsWellFormed := by
  refine ⟨fun t s u h => ?object, fun p s u h => ?assembled⟩
  case object =>
    obtain ⟨rd, hread, -, -, rfl⟩ := loadObject_eq_ok_iff.mp h
    obtain ⟨hregs, -, hcontrol, hdev, hinv⟩ :=
      (readLines_reading (start_reading s) hread).core.commitLoad (rd.entry.getD 0)
    exact ⟨hregs, hcontrol, hdev, hinv⟩
  case assembled =>
    obtain ⟨t, hitems, rfl⟩ := loadAssembled_eq_ok_iff.mp h
    exact (loadItems_building (resetMachine_building s) hitems).commitLoad p.entry

end Sys2Proof.Machine
end
